-- ==== Sys2Proof/Word.lean ====
section
/-! DEFINITION. The bit widths the spec works in: bytes, register-window words, cipher blocks, and the
index of an operand register. -/

namespace Sys2Proof

/-- R11: a byte is 8 bits. -/
abbrev Byte := BitVec 8

/-- R61, R90: a register-window word, and a command word, are 32 bits. -/
abbrev Word := BitVec 32

/-- R11: a block is a 128-bit value; its byte `j` is bits `8j+7 .. 8j`. -/
abbrev Block := BitVec 128

/-- R32, R92: an unsigned index naming one of the operand registers `V[0] … V[7]`. -/
abbrev VReg := Fin 8

end Sys2Proof
end

