-- ==== Sys2Proof/Syntax.lean ====
section
/-! DEFINITION. The fourteen commands of the DRMX command set, version 1 (R93, R98), one constructor per row
of the opcode table. -/

namespace Sys2Proof

/-- R92: the schedule a VLDRK reads, field `sel` (0 for EK, 1 for DK). -/
inductive RoundKeySel where
  | ek
  | dk
  deriving DecidableEq, Repr

/-- R93: a command. Register operands are bounded by their type; `klen` and `idx` are numbers that the engine
compares, and `Instr.wellFormed` says which of them the command word can hold. -/
inductive Instr where
  /-- R161 `derive klen`. -/
  | derive (klen : Nat)
  /-- R162 `encb vd, vs`. -/
  | encb (vd vs : VReg)
  /-- R163 `decb vd, vs`. -/
  | decb (vd vs : VReg)
  /-- R164 `zeroize`. -/
  | zeroize
  /-- R213 `pktdec`. -/
  | pktdec
  /-- R214 `pktchk`. -/
  | pktchk
  /-- R181 `aesenc vd, vs1, vs2` (vs1 the state, vs2 the round key). -/
  | aesenc (vd vs1 vs2 : VReg)
  /-- R182 `aesenclast vd, vs1, vs2`. -/
  | aesenclast (vd vs1 vs2 : VReg)
  /-- R183 `aesdec vd, vs1, vs2`. -/
  | aesdec (vd vs1 vs2 : VReg)
  /-- R184 `aesdeclast vd, vs1, vs2`. -/
  | aesdeclast (vd vs1 vs2 : VReg)
  /-- R185 `aesimc vd, vs`. -/
  | aesimc (vd vs : VReg)
  /-- R186 `aeskeygenassist vd, vs, rcon`. -/
  | aeskeygenassist (vd vs : VReg) (rcon : Byte)
  /-- R187 `vxor vd, vs1, vs2`. -/
  | vxor (vd vs1 vs2 : VReg)
  /-- R188 `vldrk vd, ek, idx` and `vldrk vd, dk, idx`. -/
  | vldrk (vd : VReg) (sel : RoundKeySel) (idx : Nat)
  deriving DecidableEq, Repr

end Sys2Proof
end

