-- ==== Sys2Proof/WellFormed.lean ====
section
/-! DEFINITION. Which commands a command word can hold: the bounds of the immediate fields (R92). -/

namespace Sys2Proof

/-- R92: `klen` is the 8-bit IMM8 and `idx` its low 4 bits. Every other operand is bounded by its type. A length
other than 16, 24 or 32, or an index above NR, IS well-formed: it is encodable, and raises at execution. -/
def Instr.wellFormed : Instr → Bool
  | .derive klen => decide (klen < 256)
  | .encb _ _ => true
  | .decb _ _ => true
  | .zeroize => true
  | .pktdec => true
  | .pktchk => true
  | .aesenc _ _ _ => true
  | .aesenclast _ _ _ => true
  | .aesdec _ _ _ => true
  | .aesdeclast _ _ _ => true
  | .aesimc _ _ => true
  | .aeskeygenassist _ _ _ => true
  | .vxor _ _ _ => true
  | .vldrk _ _ idx => decide (idx < 16)

end Sys2Proof
end

