-- ==== Sys2Proof/Decode.lean ====
section
/-! DEFINITION. Decoding a command word (R91 to R95), and the encoder after it (R98). -/

namespace Sys2Proof

/-! ### The fields of a command word (R91) -/

/-- R91: OP, bits 7:0. -/
def opOf (w : Word) : Byte := w.extractLsb' 0 8

/-- R91: VD, bits 10:8. -/
def vdOf (w : Word) : BitVec 3 := w.extractLsb' 8 3

/-- R91: VS1, bits 13:11. -/
def vs1Of (w : Word) : BitVec 3 := w.extractLsb' 11 3

/-- R91: VS2, bits 16:14. -/
def vs2Of (w : Word) : BitVec 3 := w.extractLsb' 14 3

/-- R91: RSV, bits 23:17. -/
def rsvOf (w : Word) : BitVec 7 := w.extractLsb' 17 7

/-- R91: IMM8, bits 31:24. -/
def imm8Of (w : Word) : Byte := w.extractLsb' 24 8

/-- R92: a three-bit field names an operand register, unsigned and unscaled. -/
def vregOf (f : BitVec 3) : VReg := f.toFin

/-- R92: the three-bit field that names an operand register. -/
def vregBits (v : VReg) : BitVec 3 := BitVec.ofNat 3 v.val

/-- R92: `idx` is IMM8[3:0]. -/
def idxOf (imm8 : Byte) : Nat := (imm8.extractLsb' 0 4).toNat

/-- R92: `sel` is IMM8[4], 0 for EK and 1 for DK. -/
def selOf (imm8 : Byte) : RoundKeySel := if imm8.getLsbD 4 then .dk else .ek

/-! ### The operand forms: which fields must be 0 (R91) -/

/-- R91 form N: only OP is used. -/
def formN (w : Word) : Bool :=
  vdOf w == 0 && vs1Of w == 0 && vs2Of w == 0 && rsvOf w == 0 && imm8Of w == 0

/-- R91 form I: OP and IMM8 are used. -/
def formI (w : Word) : Bool := vdOf w == 0 && vs1Of w == 0 && vs2Of w == 0 && rsvOf w == 0

/-- R91 form R2: OP, VD and VS1 are used. -/
def formR2 (w : Word) : Bool := vs2Of w == 0 && rsvOf w == 0 && imm8Of w == 0

/-- R91 form R3: OP, VD, VS1 and VS2 are used. -/
def formR3 (w : Word) : Bool := rsvOf w == 0 && imm8Of w == 0

/-- R91 form R2I: OP, VD, VS1 and IMM8 are used. -/
def formR2I (w : Word) : Bool := vs2Of w == 0 && rsvOf w == 0

/-- R91 form RK: OP, VD and IMM8[4:0] are used. -/
def formRK (w : Word) : Bool :=
  vs1Of w == 0 && vs2Of w == 0 && rsvOf w == 0 && (imm8Of w).extractLsb' 5 3 == 0

/-- `some i` where the form's must-be-zero fields are 0, otherwise the word is illegal (R95). -/
def whenForm (ok : Bool) (i : Instr) : Option Instr := if ok then some i else none

/-! ### Decoding -/

/-- R94 (its first two checks) and R95: the command a word spells, or `none` where the word is ILLEGAL whatever
CAP.HWPATH is. Total on every 32-bit word. -/
def decode (w : Word) : Option Instr :=
  let vd := vregOf (vdOf w)
  let vs1 := vregOf (vs1Of w)
  let vs2 := vregOf (vs2Of w)
  match opOf w with
  | 0x01#8 => whenForm (formI w) (.derive (imm8Of w).toNat)
  | 0x02#8 => whenForm (formR2 w) (.encb vd vs1)
  | 0x03#8 => whenForm (formR2 w) (.decb vd vs1)
  | 0x04#8 => whenForm (formN w) .zeroize
  | 0x10#8 => whenForm (formN w) .pktdec
  | 0x11#8 => whenForm (formN w) .pktchk
  | 0x20#8 => whenForm (formR3 w) (.aesenc vd vs1 vs2)
  | 0x21#8 => whenForm (formR3 w) (.aesenclast vd vs1 vs2)
  | 0x22#8 => whenForm (formR3 w) (.aesdec vd vs1 vs2)
  | 0x23#8 => whenForm (formR3 w) (.aesdeclast vd vs1 vs2)
  | 0x24#8 => whenForm (formR2 w) (.aesimc vd vs1)
  | 0x25#8 => whenForm (formR2I w) (.aeskeygenassist vd vs1 (imm8Of w))
  | 0x30#8 => whenForm (formR3 w) (.vxor vd vs1 vs2)
  | 0x31#8 => whenForm (formRK w) (.vldrk vd (selOf (imm8Of w)) (idxOf (imm8Of w)))
  | _ => none

/-- R180: the six primitive commands, which exist only on the hardware-intrinsic path. -/
def Instr.primitive : Instr → Bool
  | .derive _ => false
  | .encb _ _ => false
  | .decb _ _ => false
  | .zeroize => false
  | .pktdec => false
  | .pktchk => false
  | .aesenc _ _ _ => true
  | .aesenclast _ _ _ => true
  | .aesdec _ _ _ => true
  | .aesdeclast _ _ _ => true
  | .aesimc _ _ => true
  | .aeskeygenassist _ _ _ => true
  | .vxor _ _ _ => false
  | .vldrk _ _ _ => false

/-- R94 whole: the third check makes a primitive's word illegal on the portable path. -/
def decodeOn (hwpath : Bool) (w : Word) : Option Instr :=
  match decode w with
  | none => none
  | some i => if i.primitive && !hwpath then none else some i

/-! ### The opcode map (R93) -/

/-- R93: one row of the opcode map. -/
structure OpcodeRow where
  mnemonic : String
  opcode : Byte
  mask : Word
  pattern : Word
  hwpathOnly : Bool
  deriving DecidableEq, Repr

/-- R93: a word spells a row's command when `w & mask = match`. -/
def OpcodeRow.spells (r : OpcodeRow) (w : Word) : Bool := w &&& r.mask == r.pattern

/-- R93: the opcode map, in the table's order. -/
def opcodeTable : List OpcodeRow :=
  [⟨"DERIVE", 0x01, 0x00FFFFFF, 0x00000001, false⟩,
   ⟨"ENCB", 0x02, 0xFFFFC0FF, 0x00000002, false⟩,
   ⟨"DECB", 0x03, 0xFFFFC0FF, 0x00000003, false⟩,
   ⟨"ZEROIZE", 0x04, 0xFFFFFFFF, 0x00000004, false⟩,
   ⟨"PKTDEC", 0x10, 0xFFFFFFFF, 0x00000010, false⟩,
   ⟨"PKTCHK", 0x11, 0xFFFFFFFF, 0x00000011, false⟩,
   ⟨"AESENC", 0x20, 0xFFFE00FF, 0x00000020, true⟩,
   ⟨"AESENCLAST", 0x21, 0xFFFE00FF, 0x00000021, true⟩,
   ⟨"AESDEC", 0x22, 0xFFFE00FF, 0x00000022, true⟩,
   ⟨"AESDECLAST", 0x23, 0xFFFE00FF, 0x00000023, true⟩,
   ⟨"AESIMC", 0x24, 0xFFFFC0FF, 0x00000024, true⟩,
   ⟨"AESKEYGENASSIST", 0x25, 0x00FFC0FF, 0x00000025, true⟩,
   ⟨"VXOR", 0x30, 0xFFFE00FF, 0x00000030, false⟩,
   ⟨"VLDRK", 0x31, 0xE0FFF8FF, 0x00000031, false⟩]

/-! ### Encoding -/

/-- The mnemonic of a command, as the opcode map spells it. -/
def Instr.mnemonic : Instr → String
  | .derive _ => "DERIVE"
  | .encb _ _ => "ENCB"
  | .decb _ _ => "DECB"
  | .zeroize => "ZEROIZE"
  | .pktdec => "PKTDEC"
  | .pktchk => "PKTCHK"
  | .aesenc _ _ _ => "AESENC"
  | .aesenclast _ _ _ => "AESENCLAST"
  | .aesdec _ _ _ => "AESDEC"
  | .aesdeclast _ _ _ => "AESDECLAST"
  | .aesimc _ _ => "AESIMC"
  | .aeskeygenassist _ _ _ => "AESKEYGENASSIST"
  | .vxor _ _ _ => "VXOR"
  | .vldrk _ _ _ => "VLDRK"

/-- R91: the command word with the given fields and RSV = 0, in the order of the rule's diagram. -/
def commandWord (op : Byte) (vd vs1 vs2 : VReg) (imm8 : Byte) : Word :=
  imm8 ++ 0#7 ++ vregBits vs2 ++ vregBits vs1 ++ vregBits vd ++ op

/-- R98: VLDRK's IMM8, `idx | sel << 4`. -/
def roundKeyImm (sel : RoundKeySel) (idx : Nat) : Byte :=
  match sel with
  | .ek => 0#4 ++ BitVec.ofNat 4 idx
  | .dk => 1#4 ++ BitVec.ofNat 4 idx

/-- R93, R98: the word of a well-formed command. -/
def encode : Instr → Word
  | .derive klen => commandWord 0x01 0 0 0 (BitVec.ofNat 8 klen)
  | .encb vd vs => commandWord 0x02 vd vs 0 0
  | .decb vd vs => commandWord 0x03 vd vs 0 0
  | .zeroize => commandWord 0x04 0 0 0 0
  | .pktdec => commandWord 0x10 0 0 0 0
  | .pktchk => commandWord 0x11 0 0 0 0
  | .aesenc vd vs1 vs2 => commandWord 0x20 vd vs1 vs2 0
  | .aesenclast vd vs1 vs2 => commandWord 0x21 vd vs1 vs2 0
  | .aesdec vd vs1 vs2 => commandWord 0x22 vd vs1 vs2 0
  | .aesdeclast vd vs1 vs2 => commandWord 0x23 vd vs1 vs2 0
  | .aesimc vd vs => commandWord 0x24 vd vs 0 0
  | .aeskeygenassist vd vs rcon => commandWord 0x25 vd vs 0 rcon
  | .vxor vd vs1 vs2 => commandWord 0x30 vd vs1 vs2 0
  | .vldrk vd sel idx => commandWord 0x31 vd 0 0 (roundKeyImm sel idx)

/-! ### Pseudo-instructions (R99) -/

/-- R99: `vzero vd` is `vxor vd, vd, vd`. -/
def vzero (vd : VReg) : Instr := .vxor vd vd vd

/-- R99: `encrypt vd, vs` is `encb vd, vs`. -/
def encrypt (vd vs : VReg) : Instr := .encb vd vs

/-- R99: `decrypt vd, vs` is `decb vd, vs`. -/
def decrypt (vd vs : VReg) : Instr := .decb vd vs

/-! ### The opcode table's own numbering -/

/-- Every command is one 32-bit word (R90, R97), and the table numbers bit 0 as its least significant bit: the
instruction whose `nbits` bits are `w` is the word `w` with every bit above `nbits` zero. -/
def tableWord (nbits w : Nat) : Word := BitVec.ofNat 32 (w % 2 ^ nbits)

/-- The command this decoder reads from an instruction of the opcode table whose `nbits` bits are `w`. -/
def decodeTableWord (nbits w : Nat) : Option Instr := decode (tableWord nbits w)

end Sys2Proof
end

