-- ==== Sys2Proof/Machine/Bytes.lean ====
section
/-! DEFINITION. Bytes and words of a block (R11, R13), and the byte order of a window word (R61). -/

namespace Sys2Proof.Machine

/-- R11: byte `j` of a block. -/
def blockByte (v : Block) (j : Nat) : Byte := v.extractLsb' (8 * j) 8

/-- R13, R61: byte `k` of a 32-bit word, bits `8k+7 .. 8k`. -/
def wordByte (w : Word) (k : Nat) : Byte := w.extractLsb' (8 * k) 8

/-- R13, R61: the word `a0 | a1 << 8 | a2 << 16 | a3 << 24` of the bytes `a0 … a3`, `ak = f k`. -/
def wordOfBytes (f : Nat → Byte) : Word := f 3 ++ f 2 ++ f 1 ++ f 0

/-- R13: word `i` of a block is its bytes `4i … 4i+3`. -/
def blockWord (v : Block) (i : Nat) : Word := v.extractLsb' (32 * i) 32

/-- R13: the block of words `f 0 ++ f 1 ++ f 2 ++ f 3` (R14: the left one's bytes at the lower indices). -/
def blockOfWords (f : Nat → Word) : Block := f 3 ++ f 2 ++ f 1 ++ f 0

/-- R11: the block whose byte `j` is `f j`, for j in 0..15. -/
def blockOfBytes (f : Nat → Byte) : Block :=
  blockOfWords fun i => wordOfBytes fun k => f (4 * i + k)

/-- R67: the block with its bytes `4k … 4k+3` replaced by those of `w`. -/
def setBlockWord (v : Block) (k : Nat) (w : Word) : Block :=
  blockOfWords fun i => if i = k then w else blockWord v i

/-- The word 1 or 0 of a one-bit field. -/
def bitWord (b : Bool) : Word := if b then 1 else 0

end Sys2Proof.Machine
end

