-- ==== Sys2Proof/Machine/Rounds.lean ====
section
/-! DEFINITION. The AES transforms, rounds and block cipher (R125 to R131, R136 to R140). The AES state is the block
itself: `s[r][c]` is byte `r + 4c` (R12). -/

namespace Sys2Proof.Machine

/-- R125. -/
def subBytes (s : Block) : Block := blockOfBytes fun j => sbox (blockByte s j)

/-- R126. -/
def invSubBytes (s : Block) : Block := blockOfBytes fun j => invSbox (blockByte s j)

/-- R127: `out[r][c] = s[r][(c + r) mod 4]`, with `r = j mod 4` and `c = j div 4`. -/
def shiftRows (s : Block) : Block :=
  blockOfBytes fun j => blockByte s (j % 4 + 4 * ((j / 4 + j % 4) % 4))

/-- R128: `out[r][c] = s[r][(c - r) mod 4]`. -/
def invShiftRows (s : Block) : Block :=
  blockOfBytes fun j => blockByte s (j % 4 + 4 * ((j / 4 + 4 - j % 4) % 4))

/-- R129: one column `(a0, a1, a2, a3)` of MixColumns. -/
def mixColumn (col : Word) : Word :=
  let a := wordByte col
  wordOfBytes fun r =>
    match r with
    | 0 => gfMul 0x02 (a 0) ^^^ gfMul 0x03 (a 1) ^^^ a 2 ^^^ a 3
    | 1 => a 0 ^^^ gfMul 0x02 (a 1) ^^^ gfMul 0x03 (a 2) ^^^ a 3
    | 2 => a 0 ^^^ a 1 ^^^ gfMul 0x02 (a 2) ^^^ gfMul 0x03 (a 3)
    | _ => gfMul 0x03 (a 0) ^^^ a 1 ^^^ a 2 ^^^ gfMul 0x02 (a 3)

/-- R130: one column of InvMixColumns. -/
def invMixColumn (col : Word) : Word :=
  let a := wordByte col
  wordOfBytes fun r =>
    match r with
    | 0 => gfMul 0x0E (a 0) ^^^ gfMul 0x0B (a 1) ^^^ gfMul 0x0D (a 2) ^^^ gfMul 0x09 (a 3)
    | 1 => gfMul 0x09 (a 0) ^^^ gfMul 0x0E (a 1) ^^^ gfMul 0x0B (a 2) ^^^ gfMul 0x0D (a 3)
    | 2 => gfMul 0x0D (a 0) ^^^ gfMul 0x09 (a 1) ^^^ gfMul 0x0E (a 2) ^^^ gfMul 0x0B (a 3)
    | _ => gfMul 0x0B (a 0) ^^^ gfMul 0x0D (a 1) ^^^ gfMul 0x09 (a 2) ^^^ gfMul 0x0E (a 3)

/-- R129: each column is replaced; column `c` is bytes `4c … 4c+3` (R12). -/
def mixColumns (s : Block) : Block := blockOfWords fun c => mixColumn (blockWord s c)

/-- R130. -/
def invMixColumns (s : Block) : Block := blockOfWords fun c => invMixColumn (blockWord s c)

/-- R131: the key-mix. -/
def addRoundKey (s k : Block) : Block := s ^^^ k

/-- R136: a full forward round. -/
def encRound (s k : Block) : Block := addRoundKey (mixColumns (subBytes (shiftRows s))) k

/-- R136: the final forward round, without the diffusion step. -/
def encLast (s k : Block) : Block := addRoundKey (subBytes (shiftRows s)) k

/-- R137: a full inverse round. -/
def decRound (s k : Block) : Block := addRoundKey (invMixColumns (invSubBytes (invShiftRows s))) k

/-- R137: the final inverse round. -/
def decLast (s k : Block) : Block := addRoundKey (invSubBytes (invShiftRows s)) k

/-- R138: the state of `Cipher` after the initial key-mix and the full rounds 1 .. `r`. -/
def cipherState (ek : Nat → Block) (p : Block) : Nat → Block
  | 0 => addRoundKey p (ek 0)
  | r + 1 => encRound (cipherState ek p r) (ek (r + 1))

/-- R138: `Cipher(EK, nr, p)`. -/
def cipher (ek : Nat → Block) (nr : Nat) (p : Block) : Block :=
  encLast (cipherState ek p (nr - 1)) (ek nr)

/-- R139: the state of `InvCipher` after the initial key-mix and the full rounds 1 .. `r`. -/
def invCipherState (dk : Nat → Block) (c : Block) : Nat → Block
  | 0 => addRoundKey c (dk 0)
  | r + 1 => decRound (invCipherState dk c r) (dk (r + 1))

/-- R139: `InvCipher(DK, nr, c)`. -/
def invCipher (dk : Nat → Block) (nr : Nat) (c : Block) : Block :=
  decLast (invCipherState dk c (nr - 1)) (dk nr)

end Sys2Proof.Machine
end

