-- ==== Sys2Proof/Machine/KeySchedule.lean ====
section
/-! DEFINITION. Key expansion, the decryption round keys, and the key-generation assist (R132 to R135, R140). A
key-schedule word `(a0, a1, a2, a3)` is the 32-bit word with byte `k` equal to `ak` (R13). -/

namespace Sys2Proof.Machine

/-- R132. -/
def subWord (w : Word) : Word := wordOfBytes fun k => sbox (wordByte w k)

/-- R132: `(a1, a2, a3, a0)`. -/
def rotWord (w : Word) : Word := wordOfBytes fun k => wordByte w ((k + 1) % 4)

/-- R133: `RC[i]`: `RC[1] = 01` and `RC[i+1] = xtime(RC[i])`. -/
def roundConst (i : Nat) : Byte := xtimePow (i - 1) 0x01

/-- The word `(b, 00, 00, 00)`: `Rcon[i]` of R133 for `b = RC[i]`, and `RW` of R140 for `b = rcon`. -/
def rconWord (b : Byte) : Word := wordOfBytes fun k => if k = 0 then b else 0x00

/-- R134: what the loop makes of `t = w[i-1]` before it is mixed with `w[i-nk]`. -/
def scheduleTemp (nk i : Nat) (t : Word) : Word :=
  if i % nk = 0 then subWord (rotWord t) ^^^ rconWord (roundConst (i / nk))
  else if nk = 8 ∧ i % nk = 4 then subWord t
  else t

/-- R134: `w[i]`, given the words `w[0] … w[i-1]`. -/
def nextScheduleWord (key : Nat → Byte) (nk i : Nat) (w : List Word) : Word :=
  if i < nk then wordOfBytes fun k => key (4 * i + k)
  else w.getD (i - nk) 0 ^^^ scheduleTemp nk i (w.getD (i - 1) 0)

/-- R134: the first `n` words `w[0] … w[n-1]`. -/
def scheduleWords (key : Nat → Byte) (nk : Nat) : Nat → List Word
  | 0 => []
  | n + 1 =>
    scheduleWords key nk n ++ [nextScheduleWord key nk n (scheduleWords key nk n)]

/-- R134: `KeyExpansion(key, nk)`, the encryption round key of each round `r` in 0 .. nk+6. -/
def keyExpansion (key : Nat → Byte) (nk : Nat) (r : Nat) : Block :=
  blockOfWords fun i => (scheduleWords key nk (4 * (nk + 7))).getD (4 * r + i) 0

/-- R135: `DecKeys(EK, nr)`, the decryption round key of each round `i` in 0 .. nr. -/
def decKeys (ek : Nat → Block) (nr : Nat) (i : Nat) : Block :=
  if i = 0 then ek nr
  else if i < nr then invMixColumns (ek (nr - i))
  else ek 0

/-- R161, R40: the fifteen slots: the schedule in 0 .. nr, zero above. -/
def padSchedule (nr : Nat) (ks : Nat → Block) : Vector Block 15 :=
  Vector.ofFn fun r => if r.val ≤ nr then ks r.val else 0

/-- R140. -/
def keyGenAssist (s : Block) (rcon : Byte) : Block :=
  let x1 := blockWord s 1
  let x3 := blockWord s 3
  blockOfWords fun i =>
    match i with
    | 0 => subWord x1
    | 1 => rotWord (subWord x1) ^^^ rconWord rcon
    | 2 => subWord x3
    | _ => rotWord (subWord x3) ^^^ rconWord rcon

end Sys2Proof.Machine
end

