-- ==== Sys2Proof/Config.lean ====
section
/-! DEFINITION. The fixed constants of the block (R8) and the parameters the spec leaves open (R9).
The third open parameter, `LATENCY`, has no constant: R288 gives it no value, so the order in which the
engine and the host move is part of the outside world's inputs (`Machine.Input`, log entry 2). -/

namespace Sys2Proof.Config

/-- R9, D13: the result of the capability probe, an implementation's own; nothing here fixes it (log entry 3). -/
opaque hwpath : Bool

/-- R9, R60, D2: the platform address at which the register window stands; the platform's own (log entry 5). -/
opaque base : Nat

/-- R8: bytes in a block. -/
abbrev blockBytes : Nat := 16

/-- R8: bytes in a transport-stream packet. -/
abbrev pktLen : Nat := 188

/-- R8: the sync marker. -/
abbrev syncByte : Byte := 0x47#8

/-- R8: where the payload starts when there is no adaptation field. -/
abbrev payloadBase : Nat := 4

/-- R8: number of operand registers. -/
abbrev nvReg : Nat := 8

/-- R8: round-key slots in each direction. -/
abbrev maxRk : Nat := 15

/-- R8, R60: size of the register window in bytes. -/
abbrev windowBytes : Nat := 0x400

/-- R62: window offset of CAP. -/
abbrev capOffset : Nat := 0x000

/-- R62: window offset of STATUS. -/
abbrev statusOffset : Nat := 0x004

/-- R62: window offset of CMD. -/
abbrev cmdOffset : Nat := 0x008

/-- R62: window offset of RESULT. -/
abbrev resultOffset : Nat := 0x00C

/-- R62: window offset of KEY word 0. -/
abbrev keyOffset : Nat := 0x040

/-- R62: window offset of V[0] word 0. -/
abbrev vOffset : Nat := 0x100

/-- R62: window offset of PKT word 0. -/
abbrev pktOffset : Nat := 0x200

end Sys2Proof.Config
end

