-- ==== Sys2Proof/Machine/State.lean ====
section
/-! DEFINITION. The state of DRMX (R30 to R47), the outside world's inputs to it, why a step can stop, and the
state right after reset (R46). -/

namespace Sys2Proof.Machine

/-- Why the machine stops with a fault. R245: each is a host action outside the interface, to which the block
gives no meaning. The model stops where an implementation could do anything, so every one of them is safe. -/
inductive Fault where
  /-- R63: raised by a host access that is not 32 bits wide. Safe: nothing is claimed past it. -/
  | busWidth
  /-- R64: raised by a host access whose offset is not a multiple of 4. Safe: nothing is claimed past it. -/
  | busAlign
  /-- R286: raised by any host access but a STATUS read while BUSY = 1. Safe: nothing is claimed past it. -/
  | protocol
  deriving DecidableEq, Repr

/-- Why the machine refuses a step: it is not this block's to take. -/
inductive Refusal where
  /-- Raised by an instruction that has no meaning yet; safe. No command is left in this case. -/
  | notModelled (mnemonic : String)
  /-- R65: raised by an access at an offset of 0x400 or more, or below BASE: it is not an access to this block, and
  what it does is the platform's. Safe: the model does not take the step. -/
  | outsideWindow
  /-- R245, R253: raised by an access of a second host agent. Safe: the model does not take the step. -/
  | secondHost
  deriving DecidableEq, Repr

/-- R242: the outcome of the last completed command. Codes 7 to 15 are never written, so they are no values here
(DEDUCED, safe: log entry 14). -/
inductive ErrCode where
  | ok
  | illegal
  | invalidKeySize
  | noSchedule
  | contextActive
  | badIndex
  | badSync
  deriving DecidableEq, Repr

/-- R66, R67: one access of the register window: `MemRead(off, width)` or `MemWrite(off, width, v)`, width in bytes. -/
inductive Access where
  | read (width off : Nat)
  | write (width off : Nat) (v : Word)
  deriving DecidableEq, Repr

/-- What reaches the machine from outside, in the order in which it takes effect. Who moves next (R30) and how many
host accesses fall between a CMD write and the command's completion (`LATENCY`, R288) are read off this order. -/
inductive Input where
  /-- The one host accesses the window at an offset (R66, R67). -/
  | access (a : Access)
  /-- The same access as the platform's bus carries it: its offset field is an absolute address (R60, `BASE`). -/
  | bus (a : Access)
  /-- A second host agent accesses the window (R253). -/
  | secondHost (a : Access)
  /-- The engine's turn: it completes the command in flight, if there is one (R285). -/
  | engine
  /-- Power-on, or the platform's reset input to the block (R280); between two moves (DEDUCED, safe: log entry 15). -/
  | reset
  deriving DecidableEq, Repr

/-- Byte storage of the window's address space by window offset: pairs of an offset and its byte, offsets strictly
rising, none listed with the byte an unlisted offset reads as (`Memory.wf`). It holds the packet buffer PKT (R42), the
one part of the window (R62) that is a buffer and no register (DESIGN CHOICE, safe: log entry 4). -/
abbrev Memory := List Host.Cell

/-- The machine. The first twelve fields are the block's architectural state (R46), the last two are the model's own: the
inputs still to come, and what the host has read. STATUS.BUSY is no field: R43 makes it the same fact as
`inflight ≠ none` (`State.busy`; DEDUCED, safe: log entry 9). -/
structure State where
  /-- R34: CAP.HWPATH, 1 bit. -/
  hwpath : Bool
  /-- R43: INFLIGHT, the command issued and not yet completed. -/
  inflight : Option Word
  /-- R35, R40: STATUS.SCHED_VALID, 1 bit. -/
  schedValid : Bool
  /-- R35, R36: STATUS.ERR, 4 bits. -/
  err : ErrCode
  /-- R35, R40: STATUS.NR, 8 bits. -/
  nr : Byte
  /-- R35, R40: STATUS.KLEN, 8 bits. -/
  klen : Byte
  /-- R38: RESULT, 32 bits. -/
  result : Word
  /-- R39: KEY, 32 bytes. -/
  key : Vector Byte 32
  /-- R40: the encryption round keys EK[0..14], 128 bits each. -/
  ek : Vector Block 15
  /-- R40: the decryption round keys DK[0..14], 128 bits each. -/
  dk : Vector Block 15
  /-- R32: the operand registers V[0..7], 128 bits each. -/
  v : Vector Block 8
  /-- R42: the packet buffer PKT, 188 bytes, by window offset. -/
  mem : Memory
  /-- The model's own (DESIGN CHOICE, safe: log entries 2 and 8): what the outside world does next, oldest first. -/
  inputs : List Input
  /-- The model's own (DESIGN CHOICE, safe: log entry 8): the values `MemRead` returned to the host (R66), newest first. -/
  returned : List Word
  deriving DecidableEq, Repr

/-- R46, R280: the machine right after reset, with no input placed. -/
def State.reset : State where
  hwpath := Config.hwpath
  inflight := none
  schedValid := false
  err := .ok
  nr := 0
  klen := 0
  result := 0
  key := Vector.replicate 32 0
  ek := Vector.replicate 15 0
  dk := Vector.replicate 15 0
  v := Vector.replicate 8 0
  mem := []
  inputs := []
  returned := []

end Sys2Proof.Machine
end

