-- ==== Sys2Proof/Machine/Flags.lean ====
section
/-! DEFINITION. The status words: CAP, STATUS and RESULT (R34, R35, R38, R45, R242). The block has no arithmetic flags. -/

namespace Sys2Proof.Machine

/-- R242: the code of STATUS.ERR. -/
def errNumber : ErrCode → BitVec 4
  | .ok => 0
  | .illegal => 1
  | .invalidKeySize => 2
  | .noSchedule => 3
  | .contextActive => 4
  | .badIndex => 5
  | .badSync => 6

/-- R35, R43: STATUS.BUSY, 1 exactly when a command is in flight. -/
def State.busy (s : State) : Bool := s.inflight.isSome

/-- R34, R66: CAP, `zext_32(CAP.HWPATH)`. -/
def State.capWord (s : State) : Word := bitWord s.hwpath

/-- R35, R66: STATUS, `BUSY | SCHED_VALID << 1 | ERR << 4 | NR << 8 | KLEN << 16`. -/
def State.statusWord (s : State) : Word :=
  bitWord s.busy ||| bitWord s.schedValid <<< 1 ||| (errNumber s.err).setWidth 32 <<< 4
    ||| s.nr.setWidth 32 <<< 8 ||| s.klen.setWidth 32 <<< 16

/-- R213: `Pack(sync, scr, proc, afp, sc, poff, nblk)`, the layout of RESULT (R38). -/
def packResult (sync scr proc afp : Bool) (sc : BitVec 2) (poff nblk : Nat) : Word :=
  bitWord sync ||| bitWord scr <<< 1 ||| bitWord proc <<< 2 ||| bitWord afp <<< 3
    ||| sc.setWidth 32 <<< 4 ||| BitVec.ofNat 32 poff <<< 8 ||| BitVec.ofNat 32 nblk <<< 20

/-- R38: RESULT.SYNC_OK. -/
def resultSyncOk (r : Word) : Bool := r.getLsbD 0

/-- R38: RESULT.SCRAMBLED. -/
def resultScrambled (r : Word) : Bool := r.getLsbD 1

/-- R38: RESULT.PROCESSED. -/
def resultProcessed (r : Word) : Bool := r.getLsbD 2

/-- R38: RESULT.AFP. -/
def resultAfp (r : Word) : Bool := r.getLsbD 3

/-- R38: RESULT.SC. -/
def resultSc (r : Word) : BitVec 2 := r.extractLsb' 4 2

/-- R38: RESULT.POFF. -/
def resultPoff (r : Word) : Nat := (r.extractLsb' 8 9).toNat

/-- R38: RESULT.NBLK. -/
def resultNblk (r : Word) : Nat := (r.extractLsb' 20 4).toNat

/-- R38: the reserved bits 7:6, 19:17 and 31:24 of RESULT. -/
def resultReserved (r : Word) : Word := r &&& 0xFF0E00C0#32

end Sys2Proof.Machine
end

