-- ==== Sys2Proof/Machine/Ops.lean ====
section
/-! DEFINITION. The named operations over the packet buffer and the registers, and the two ends of a command: with an
error code, or with OK (R241, R285). -/

namespace Sys2Proof.Machine

/-! ### The byte storage -/

/-- R46, R42: what an unlisted offset reads as: every byte of PKT is 0x00 at reset. -/
def unlistedByte : Byte := 0x00#8

/-- The canonical form: offsets strictly rising, no entry equal to what an unlisted offset reads as. -/
abbrev Memory.wf (m : Memory) : Prop :=
  m.Pairwise (fun p q => p.1 < q.1) ∧ ∀ p ∈ m, p.2 ≠ unlistedByte

/-- The byte at an offset. -/
def Memory.read : Memory → Nat → Byte
  | [], _ => unlistedByte
  | (x, c) :: m, a => if x = a then c else Memory.read m a

/-- Store a byte at an offset, keeping the canonical form. -/
def Memory.write : Memory → Nat → Byte → Memory
  | [], a, b => if b = unlistedByte then [] else [(a, b)]
  | (x, c) :: m, a, b =>
    if a < x then (if b = unlistedByte then (x, c) :: m else (a, b) :: (x, c) :: m)
    else if a = x then (if b = unlistedByte then m else (a, b) :: m)
    else (x, c) :: Memory.write m a b

/-- R62: `PKT[j]` stands at window offset `0x200 + j`. -/
def Memory.pktByte (m : Memory) (j : Nat) : Byte := m.read (Config.pktOffset + j)

/-- `PKT[j] <- b`. -/
def Memory.setPktByte (m : Memory) (j : Nat) (b : Byte) : Memory := m.write (Config.pktOffset + j) b

/-- R15: `PKT[o .. o+15]` as a block. -/
def Memory.pktBlock (m : Memory) (o : Nat) : Block := blockOfBytes fun j => m.pktByte (o + j)

/-- Store `n` bytes `f 0 … f (n-1)` at `PKT[o] … PKT[o+n-1]`. -/
def Memory.setPktBytes (m : Memory) (o : Nat) (f : Nat → Byte) : Nat → Memory
  | 0 => m
  | n + 1 => (Memory.setPktBytes m o f n).setPktByte (o + n) (f n)

/-- R15: `PKT[o .. o+15] <- b`. -/
def Memory.setPktBlock (m : Memory) (o : Nat) (b : Block) : Memory :=
  m.setPktBytes o (blockByte b) Config.blockBytes

/-! ### The registers -/

/-- R15: `V[i]`. -/
def State.readV (s : State) (i : VReg) : Block := s.v[i.val]

/-- R15: `V[i] <- b`. -/
def State.writeV (s : State) (i : VReg) (b : Block) : State := { s with v := s.v.set i.val b }

/-- R15: `KEY[j]`, and 0 past index 31 (DESIGN CHOICE, safe: log entry 13). -/
def State.keyByte (s : State) (j : Nat) : Byte := s.key[j]?.getD 0

/-- A round key of a schedule, by slot, and 0 past slot 14 (DESIGN CHOICE, safe: log entry 13). -/
def slot (ks : Vector Block 15) (r : Nat) : Block := ks[r]?.getD 0

/-- R15: `EK[r]`. -/
def State.ekAt (s : State) (r : Nat) : Block := slot s.ek r

/-- R15: `DK[r]`. -/
def State.dkAt (s : State) (r : Nat) : Block := slot s.dk r

/-- The packet buffer replaced. -/
def State.setMem (s : State) (m : Memory) : State := { s with mem := m }

/-- `RESULT <- r`. -/
def State.setResult (s : State) (r : Word) : State := { s with result := r }

/-- R67: KEY word `k`, bytes `KEY[4k .. 4k+3]`, replaced by the bytes of `w`. -/
def State.setKeyWord (s : State) (k : Nat) (w : Word) : State :=
  { s with
    key := (((s.key.setIfInBounds (4 * k) (wordByte w 0)).setIfInBounds (4 * k + 1) (wordByte w 1)
      ).setIfInBounds (4 * k + 2) (wordByte w 2)).setIfInBounds (4 * k + 3) (wordByte w 3) }

/-- R161: a cipher context comes to be. -/
def State.installContext (s : State) (nr klen : Byte) (ek dk : Vector Block 15) : State :=
  { s with ek := ek, dk := dk, nr := nr, klen := klen, schedValid := true }

/-- R164: KEY, EK, DK and V are overwritten with zeros and the context ends. -/
def State.eraseKeys (s : State) : State :=
  { s with
    key := Vector.replicate 32 0
    ek := Vector.replicate 15 0
    dk := Vector.replicate 15 0
    v := Vector.replicate 8 0
    nr := 0
    klen := 0
    schedValid := false }

/-! ### How a command ends -/

/-- R241: `raise E`: STATUS.ERR takes E's code and nothing else of the command's is written. The block has no trap
(R240, R247): an erroring command completes like any other, in `State.retire`. -/
def State.raise (s : State) (e : ErrCode) : State := { s with err := e }

/-- `ERR <- OK`. -/
def State.done (s : State) : State := { s with err := .ok }

/-- R285: `BUSY <- 0; INFLIGHT <- none`, after every command, whether it raised or not (R248: nothing else returns). -/
def State.retire (s : State) : State := { s with inflight := none }

/-- R180: what the six primitive commands share: ILLEGAL on the portable path, otherwise one register written. -/
def State.primitive (s : State) (vd : VReg) (b : Block) : State :=
  if s.hwpath then (s.writeV vd b).done else s.raise .illegal

/-! ### How the host meets the block -/

/-- R284: `INFLIGHT <- w` (and with it `BUSY <- 1`). -/
def State.issue (s : State) (w : Word) : State := { s with inflight := some w }

/-- The outside world's next inputs replaced. -/
def State.setInputs (s : State) (is : List Input) : State := { s with inputs := is }

/-- R66: a value goes back to the host. -/
def State.pushReturned (s : State) (w : Word) : State := { s with returned := w :: s.returned }

/-- R280, R281, R282: every piece of the block's state takes its reset value, a command in flight included; what the
outside world does next and what the host has read are not the block's. -/
def State.resetBlock (s : State) : State :=
  { State.reset with inputs := s.inputs, returned := s.returned }

/-- Apply a function to the next state of an outcome. -/
def mapNext {σ τ : Type} (f : σ → τ) : Host.Outcome σ Fault Refusal → Host.Outcome τ Fault Refusal
  | .next s => .next (f s)
  | .fault r => .fault r
  | .refused r => .refused r

end Sys2Proof.Machine
end

