-- ==== Sys2Proof/Machine/Operands.lean ====
section
/-! DEFINITION. The operands of the commands (R92): the key and its schedules, a round key by index, the packet
header and its payload blocks. Register operands are `State.readV`. -/

namespace Sys2Proof.Machine

/-- R161: the key lengths that DERIVE takes. -/
def validKlen (klen : Nat) : Bool := klen == 16 || klen == 24 || klen == 32

/-- R161, R134: the encryption round keys of `KEY[0 .. klen-1]`, padded to fifteen slots. -/
def encSlots (key : Nat → Byte) (klen : Nat) : Vector Block 15 :=
  padSchedule (klen / 4 + 6) (keyExpansion key (klen / 4))

/-- R161, R135: the decryption round keys of `KEY[0 .. klen-1]`, padded to fifteen slots. -/
def decSlots (key : Nat → Byte) (klen : Nat) : Vector Block 15 :=
  padSchedule (klen / 4 + 6) (decKeys (keyExpansion key (klen / 4)) (klen / 4 + 6))

/-- R188: the round key a VLDRK names. -/
def State.roundKey (s : State) (sel : RoundKeySel) (idx : Nat) : Block :=
  match sel with
  | .ek => s.ekAt idx
  | .dk => s.dkAt idx

/-- R138, R40: `Cipher(EK, NR, p)` under the current context. -/
def State.encryptBlock (s : State) (p : Block) : Block := cipher s.ekAt s.nr.toNat p

/-- R139, R40: `InvCipher(DK, NR, c)` under the current context. -/
def State.decryptBlock (s : State) (c : Block) : Block := invCipher s.dkAt s.nr.toNat c

/-- R211: the header's fields. -/
structure Header where
  syncOk : Bool
  sc : BitVec 2
  afp : Bool
  poff : Nat
  nblk : Nat
  scrambled : Bool
  deriving DecidableEq, Repr

/-- R211: the payload offset, without wrap-around (4 .. 260). -/
def payloadOffset (afp : Bool) (afl : Byte) : Nat :=
  Config.payloadBase + (if afp then 1 + afl.toNat else 0)

/-- R211: the whole 16-byte blocks between the payload offset and the end of the packet. -/
def payloadBlocks (poff : Nat) : Nat :=
  if poff < Config.pktLen then (Config.pktLen - poff) / Config.blockBytes else 0

/-- R211: SC = 10 or SC = 11. -/
def scrambledSc (sc : BitVec 2) : Bool := sc == 0b10#2 || sc == 0b11#2

/-- R210, R211: `ParseHeader(PKT)`. -/
def parseHeader (m : Memory) : Header :=
  let sc := (m.pktByte 3).extractLsb' 6 2
  let afp := (m.pktByte 3).getLsbD 5
  let poff := payloadOffset afp (m.pktByte 4)
  { syncOk := m.pktByte 0 == Config.syncByte
    sc := sc
    afp := afp
    poff := poff
    nblk := payloadBlocks poff
    scrambled := scrambledSc sc }

/-- R213: RESULT for a sync-valid header. -/
def Header.pack (h : Header) (proc : Bool) : Word :=
  packResult true h.scrambled proc h.afp h.sc h.poff h.nblk

/-- R213, steps 4 and 5: the blocks `B_0 … B_(n-1)` from `poff` on, each replaced by `f` of itself (R215: no
chaining). -/
def mapPayload (f : Block → Block) (m : Memory) (poff : Nat) : Nat → Memory
  | 0 => m
  | n + 1 =>
    let m' := mapPayload f m poff n
    let o := poff + Config.blockBytes * n
    m'.setPktBlock o (f (m'.pktBlock o))

/-- R213, step 6: `PKT[3] <- PKT[3] & 0x3F`. -/
def clearScrambling (m : Memory) : Memory := m.setPktByte 3 (m.pktByte 3 &&& 0x3F#8)

end Sys2Proof.Machine
end

