-- ==== Sys2Proof/Machine/BlockCommands.lean ====
section
/-! DEFINITION. The cipher-context and block commands: DERIVE, ENCB, DECB, ZEROIZE (R160 to R164). They are the same on
both cipher paths (R165). -/

namespace Sys2Proof.Machine

/-- R161 DERIVE: INVALID_KEY_SIZE, then CONTEXT_ACTIVE, then the schedules. -/
def execDerive (klen : Nat) (s : State) : Host.Outcome State Fault Refusal :=
  .next <|
    if !validKlen klen then s.raise .invalidKeySize
    else if s.schedValid then s.raise .contextActive
    else
      (s.installContext (BitVec.ofNat 8 (klen / 4 + 6)) (BitVec.ofNat 8 klen)
        (encSlots s.keyByte klen) (decSlots s.keyByte klen)).done

/-- R162 ENCB. -/
def execEncb (vd vs : VReg) (s : State) : Host.Outcome State Fault Refusal :=
  .next <|
    if !s.schedValid then s.raise .noSchedule
    else (s.writeV vd (s.encryptBlock (s.readV vs))).done

/-- R163 DECB. -/
def execDecb (vd vs : VReg) (s : State) : Host.Outcome State Fault Refusal :=
  .next <|
    if !s.schedValid then s.raise .noSchedule
    else (s.writeV vd (s.decryptBlock (s.readV vs))).done

/-- R164 ZEROIZE: it cannot fail, and it clears neither PKT nor RESULT. -/
def execZeroize (s : State) : Host.Outcome State Fault Refusal := .next s.eraseKeys.done

end Sys2Proof.Machine
end

