-- ==== Sys2Proof/Machine/DataMoves.lean ====
section
/-! DEFINITION. The data moves VXOR and VLDRK (R187, R188), on both cipher paths. -/

namespace Sys2Proof.Machine

/-- R187 VXOR, the key-mix as a command. -/
def execVxor (vd vs1 vs2 : VReg) (s : State) : Host.Outcome State Fault Refusal :=
  .next (s.writeV vd (addRoundKey (s.readV vs1) (s.readV vs2))).done

/-- R188 VLDRK: NO_SCHEDULE, then BAD_INDEX, then the move. -/
def execVldrk (vd : VReg) (sel : RoundKeySel) (idx : Nat) (s : State) :
    Host.Outcome State Fault Refusal :=
  .next <|
    if !s.schedValid then s.raise .noSchedule
    else if s.nr.toNat < idx then s.raise .badIndex
    else (s.writeV vd (s.roundKey sel idx)).done

end Sys2Proof.Machine
end

