-- ==== Sys2Proof/Machine/PacketCommands.lean ====
section
/-! DEFINITION. The packet commands PKTDEC and PKTCHK (R213, R214). -/

namespace Sys2Proof.Machine

/-- R213 PKTDEC: the sync check, the skip of an unscrambled packet, NO_SCHEDULE, then the blocks in place and SC
cleared. RESULT is written on every path, before a raise too. -/
def execPktdec (s : State) : Host.Outcome State Fault Refusal :=
  let h := parseHeader s.mem
  .next <|
    if !h.syncOk then (s.setResult 0).raise .badSync
    else if !h.scrambled then (s.setResult (h.pack false)).done
    else if !s.schedValid then (s.setResult (h.pack false)).raise .noSchedule
    else
      ((s.setMem (clearScrambling (mapPayload s.decryptBlock s.mem h.poff h.nblk))).setResult
        (h.pack true)).done

/-- R214 PKTCHK: the validator and header parser alone. -/
def execPktchk (s : State) : Host.Outcome State Fault Refusal :=
  let h := parseHeader s.mem
  .next <|
    if !h.syncOk then (s.setResult 0).raise .badSync
    else (s.setResult (h.pack false)).done

end Sys2Proof.Machine
end

