-- ==== Sys2Proof/Machine/RoundPrimitives.lean ====
section
/-! DEFINITION. The six hardware-intrinsic primitives (R180 to R186). None reads the cipher context, and on the portable
path each raises ILLEGAL. -/

namespace Sys2Proof.Machine

/-- R181 AESENC. -/
def execAesenc (vd vs1 vs2 : VReg) (s : State) : Host.Outcome State Fault Refusal :=
  .next (s.primitive vd (encRound (s.readV vs1) (s.readV vs2)))

/-- R182 AESENCLAST. -/
def execAesenclast (vd vs1 vs2 : VReg) (s : State) : Host.Outcome State Fault Refusal :=
  .next (s.primitive vd (encLast (s.readV vs1) (s.readV vs2)))

/-- R183 AESDEC. -/
def execAesdec (vd vs1 vs2 : VReg) (s : State) : Host.Outcome State Fault Refusal :=
  .next (s.primitive vd (decRound (s.readV vs1) (s.readV vs2)))

/-- R184 AESDECLAST. -/
def execAesdeclast (vd vs1 vs2 : VReg) (s : State) : Host.Outcome State Fault Refusal :=
  .next (s.primitive vd (decLast (s.readV vs1) (s.readV vs2)))

/-- R185 AESIMC. -/
def execAesimc (vd vs : VReg) (s : State) : Host.Outcome State Fault Refusal :=
  .next (s.primitive vd (invMixColumns (s.readV vs)))

/-- R186 AESKEYGENASSIST: every `rcon` byte is legal. -/
def execAeskeygenassist (vd vs : VReg) (rcon : Byte) (s : State) :
    Host.Outcome State Fault Refusal :=
  .next (s.primitive vd (keyGenAssist (s.readV vs) rcon))

end Sys2Proof.Machine
end

