-- ==== Sys2Proof/Machine/Dispatch.lean ====
section
/-! DEFINITION. Each command sent to its meaning, in the order of the opcode map (R93). -/

namespace Sys2Proof.Machine

def exec (i : Instr) (s : State) : Host.Outcome State Fault Refusal :=
  match i with
  | .derive klen => Sys2Proof.Machine.execDerive klen s
  | .encb vd vs => Sys2Proof.Machine.execEncb vd vs s
  | .decb vd vs => Sys2Proof.Machine.execDecb vd vs s
  | .zeroize => Sys2Proof.Machine.execZeroize s
  | .pktdec => Sys2Proof.Machine.execPktdec s
  | .pktchk => Sys2Proof.Machine.execPktchk s
  | .aesenc vd vs1 vs2 => Sys2Proof.Machine.execAesenc vd vs1 vs2 s
  | .aesenclast vd vs1 vs2 => Sys2Proof.Machine.execAesenclast vd vs1 vs2 s
  | .aesdec vd vs1 vs2 => Sys2Proof.Machine.execAesdec vd vs1 vs2 s
  | .aesdeclast vd vs1 vs2 => Sys2Proof.Machine.execAesdeclast vd vs1 vs2 s
  | .aesimc vd vs => Sys2Proof.Machine.execAesimc vd vs s
  | .aeskeygenassist vd vs rcon => Sys2Proof.Machine.execAeskeygenassist vd vs rcon s
  | .vxor vd vs1 vs2 => Sys2Proof.Machine.execVxor vd vs1 vs2 s
  | .vldrk vd sel idx => Sys2Proof.Machine.execVldrk vd sel idx s

end Sys2Proof.Machine
end

