-- ==== Sys2Proof/Machine/Window.lean ====
section
/-! DEFINITION. The register window and the host's two accesses of it (R60 to R70). -/

namespace Sys2Proof.Machine

/-- R66: `n = (off - 0x100) div 16` of an offset in V's range. -/
def vIndex (off : Nat) : VReg := Fin.ofNat 8 ((off - Config.vOffset) / 16)

/-- R66: `k = ((off - 0x100) mod 16) div 4` of an offset in V's range. -/
def vWordIndex (off : Nat) : Nat := (off - Config.vOffset) % 16 / 4

/-- R62: the KEY words, 0x040 .. 0x05C. -/
def inKey (off : Nat) : Bool := decide (0x040 ≤ off ∧ off ≤ 0x05C)

/-- R62: the words of V, 0x100 .. 0x17C. -/
def inV (off : Nat) : Bool := decide (0x100 ≤ off ∧ off ≤ 0x17C)

/-- R62: the PKT words, 0x200 .. 0x2B8. -/
def inPkt (off : Nat) : Bool := decide (0x200 ≤ off ∧ off ≤ 0x2B8)

/-- R66: the word at an aligned offset of the window. CMD, KEY and every reserved offset read 0 (R37, R68, R69). -/
def State.windowRead (s : State) (off : Nat) : Word :=
  if off = Config.capOffset then s.capWord
  else if off = Config.statusOffset then s.statusWord
  else if off = Config.cmdOffset then 0
  else if off = Config.resultOffset then s.result
  else if inKey off then 0
  else if inV off then blockWord (s.readV (vIndex off)) (vWordIndex off)
  else if inPkt off then wordOfBytes fun i => s.mem.pktByte (off - Config.pktOffset + i)
  else 0

/-- R67: the state after a word is stored at an aligned offset of the window. CAP, STATUS, RESULT and every reserved
offset ignore it (R68), and so does KEY while a context exists (R69). -/
def State.windowWrite (s : State) (off : Nat) (w : Word) : State :=
  if off = Config.cmdOffset then s.issue w
  else if inKey off then (if s.schedValid then s else s.setKeyWord ((off - Config.keyOffset) / 4) w)
  else if inV off then
    s.writeV (vIndex off) (setBlockWord (s.readV (vIndex off)) (vWordIndex off) w)
  else if inPkt off then
    s.setMem (s.mem.setPktBytes (off - Config.pktOffset) (wordByte w) 4)
  else s

/-- R63, R64, R65: the checks every access meets first, in the order of R66 and R67. -/
def checkAccess {σ : Type} (width off : Nat) (go : Host.Outcome σ Fault Refusal) :
    Host.Outcome σ Fault Refusal :=
  if width ≠ 4 then .fault .busWidth
  else if off % 4 ≠ 0 then .fault .busAlign
  else if Config.windowBytes ≤ off then .refused .outsideWindow
  else go

/-- R66: `MemRead(off, width)`. It changes no state (R70). -/
def memRead (width off : Nat) (s : State) : Host.Outcome Word Fault Refusal :=
  checkAccess width off <|
    if s.busy ∧ off ≠ Config.statusOffset then .fault .protocol
    else .next (s.windowRead off)

/-- R67: `MemWrite(off, width, v)`. -/
def memWrite (width off : Nat) (w : Word) (s : State) : Host.Outcome State Fault Refusal :=
  checkAccess width off <|
    if s.busy then .fault .protocol
    else .next (s.windowWrite off w)

/-- R30: the host's move: a read gives it a value, a write changes the block. -/
def hostAccess (a : Access) (s : State) : Host.Outcome State Fault Refusal :=
  match a with
  | .read width off => mapNext s.pushReturned (memRead width off s)
  | .write width off w => memWrite width off w s

/-- R60: the same access seen from the platform, where the window stands at BASE. DEDUCED, safe (log entry 5): below it there is
no window, and R65's refusal applies. -/
def busAccess (a : Access) (s : State) : Host.Outcome State Fault Refusal :=
  match a with
  | .read width addr =>
    if addr < Config.base then .refused .outsideWindow
    else hostAccess (.read width (addr - Config.base)) s
  | .write width addr w =>
    if addr < Config.base then .refused .outsideWindow
    else hostAccess (.write width (addr - Config.base) w) s

end Sys2Proof.Machine
end

