-- ==== Sys2Proof/Machine/Engine.lean ====
section
/-! DEFINITION. The engine's step (R285), and what each input from outside does. -/

namespace Sys2Proof.Machine

/-- R285 `Execute(w)`, R94: an illegal word writes STATUS.ERR = 1 and nothing else (R95). R94's third check, a
primitive on the portable path, is in the primitives' own meanings, `State.primitive` (DEDUCED, safe: log entry 10). -/
def execute (w : Word) (s : State) : Host.Outcome State Fault Refusal :=
  match decode w with
  | none => .next (s.raise .illegal)
  | some i => exec i s

/-- R285 `EngineStep`, enabled exactly when a command is in flight; the block is idle otherwise (R255; DESIGN CHOICE,
safe: log entry 1). -/
def engineStep (s : State) : Host.Outcome State Fault Refusal :=
  match s.inflight with
  | none => .next s
  | some w => mapNext State.retire (execute w s)

/-- What one input does. DESIGN CHOICE, safe (log entry 11): a second host is refused before any other check. -/
def takeInput (i : Input) (s : State) : Host.Outcome State Fault Refusal :=
  match i with
  | .access a => hostAccess a s
  | .bus a => busAccess a s
  | .secondHost _ => .refused .secondHost
  | .engine => engineStep s
  | .reset => .next s.resetBlock

/-- The inputs with which the engine moves next: itself where none is waiting, and its turn before those that are. -/
def engineNext : List Input → List Input
  | [] => []
  | i :: is => .engine :: i :: is

end Sys2Proof.Machine
end

