-- ==== Sys2Proof/Machine/Step.lean ====
section
/-! DEFINITION. One step of the machine, and how the engine comes to run a given command next. -/

namespace Sys2Proof.Machine

/-- R30, R71, R287: one agent moves at a time, in the order of the inputs. With no input left the engine completes the
command in flight (R288: an enabled engine step eventually happens); with none in flight either, the block is idle. DESIGN
CHOICE, safe (log entry 2): the order of the two agents' moves is data of the state. -/
def step (s : State) : Host.Outcome State Fault Refusal :=
  match s.inputs with
  | [] => engineStep s
  | i :: is => takeInput i (s.setInputs is)

/-- The state in which the command whose `nbits` bits are `w` is in flight and the engine moves next. The block fetches
nothing (R31, R74): INFLIGHT is where it takes its command from (R43, R285; log entry 1). -/
def State.withFetchWord (s : State) (nbits w : Nat) : State :=
  (s.issue (tableWord nbits w)).setInputs (engineNext s.inputs)

end Sys2Proof.Machine
end

