-- ==== Sys2Proof/Machine/HostScript.lean ====
section
/-! DEFINITION. The host's side of the interface as lists of inputs: the script notation (R100), and the duties the spec
gives the host (R260, R262, R265, R266). Nothing in the machine's step uses this file. -/

namespace Sys2Proof.Machine

/-- R100 `wr off, v`. -/
def wr (off : Nat) (v : Word) : Input := .access (.write 4 off v)

/-- R100 `rd off`. -/
def rd (off : Nat) : Input := .access (.read 4 off)

/-- R61, R100: the bytes of a byte string, packed little-endian into the `n` words from `off` on. -/
def wrBytes (off : Nat) (bytes : Nat → Byte) (n : Nat) : List Input :=
  (List.range n).map fun k => wr (off + 4 * k) (wordOfBytes fun i => bytes (4 * k + i))

/-- R100 `ldkey hex`, for a key of `klen` bytes. -/
def ldkey (key : Nat → Byte) (klen : Nat) : List Input := wrBytes Config.keyOffset key (klen / 4)

/-- R100 `ldv vn, hex`. -/
def ldv (n : VReg) (b : Block) : List Input :=
  wrBytes (Config.vOffset + 16 * n.val) (blockByte b) 4

/-- R100 `ldpkt hex`: 47 writes. -/
def ldpkt (pkt : Nat → Byte) : List Input := wrBytes Config.pktOffset pkt 47

/-- R100 `cmd line`: the CMD write and the `wait` after it. `polls` is how many STATUS reads fall before the engine
completes the command (`LATENCY`, R288); the last read returns BUSY = 0. -/
def cmd (polls : Nat) (i : Instr) : List Input :=
  wr Config.cmdOffset (encode i) ::
    (List.replicate polls (rd Config.statusOffset) ++ [.engine, rd Config.statusOffset])

/-- R262: the key byte at position `p`, from the container's bytes: `KEY[(j & 0xC) + (3 - (j & 3))]` takes container
byte `8 + j`, and the reordering is its own inverse. -/
def keyFromContainer (container : Nat → Byte) (p : Nat) : Byte :=
  container (8 + ((p &&& 0xC) + (3 - (p &&& 3))))

/-- R265: what the host does for one packet up to its STATUS read. DEDUCED, safe (log entry 18): the wait for BUSY = 0 and the
read of STATUS.ERR are two actions, so that STATUS is read once more after the wait, as in the program P3. -/
def decodePacket (polls : Nat) (pkt : Nat → Byte) : List Input :=
  ldpkt pkt ++ cmd polls .pktdec ++ [rd Config.statusOffset]

/-- R265: on OK the host reads the packet back; on BAD_SYNC it writes no output. DESIGN CHOICE, unsafe (log entry 17): R265
gives no rule for another code, which a PKTDEC without a context can leave (NO_SCHEDULE); there the model's host writes no
output, where the program P3 would read PKT back on any code but BAD_SYNC. -/
def readPacketBack (e : ErrCode) : List Input :=
  match e with
  | .ok => (List.range 47).map fun k => rd (Config.pktOffset + 4 * k)
  | _ => []

/-- R266: at the end of a recording. -/
def endRecording (polls : Nat) : List Input := cmd polls .zeroize

end Sys2Proof.Machine
end

