-- ==== Sys2Proof/Safety.lean ====
section
/-! DEFINITION. What counts as a safe move of the host, the invariant of the machine, and the frames in whose terms
the claims are stated. -/

namespace Sys2Proof.Machine

/-! ### The host's duties -/

/-- R63 to R65, R286: the accesses the interface gives a meaning in a state: 32 bits wide, aligned, inside the window,
and while BUSY = 1 only a STATUS read. -/
def Access.allowed (a : Access) (s : State) : Bool :=
  match a with
  | .read width off =>
    width == 4 && off % 4 == 0 && decide (off < Config.windowBytes) &&
      (!s.busy || off == Config.statusOffset)
  | .write width off _ =>
    width == 4 && off % 4 == 0 && decide (off < Config.windowBytes) && !s.busy

/-- What a host that is polling may do (R261), and the engine's turn. -/
def Input.polling : Input → Bool
  | .access (.read width off) => width == 4 && off == Config.statusOffset
  | .access (.write _ _ _) => false
  | .bus _ => false
  | .secondHost _ => false
  | .engine => true
  | .reset => false

/-! ### The invariant -/

/-- R40, R39, R46: with a context, EK and DK are the schedules of the key in KEY and NR, KLEN its sizes; without one,
all of them are zero. -/
def State.contextOk (s : State) : Prop :=
  if s.schedValid then
    validKlen s.klen.toNat ∧ s.nr.toNat = s.klen.toNat / 4 + 6 ∧
      s.ek = encSlots s.keyByte s.klen.toNat ∧ s.dk = decSlots s.keyByte s.klen.toNat
  else
    s.nr = 0 ∧ s.klen = 0 ∧ s.ek = Vector.replicate 15 0 ∧ s.dk = Vector.replicate 15 0

/-- R38: RESULT is 0, or holds SYNC_OK = 1, reserved bits 0, POFF in 4 .. 260, NBLK the whole blocks after POFF,
SCRAMBLED as SC says, and PROCESSED only with SCRAMBLED. -/
def State.resultOk (s : State) : Prop :=
  s.result = 0 ∨
    (resultSyncOk s.result ∧ resultReserved s.result = 0 ∧
      4 ≤ resultPoff s.result ∧ resultPoff s.result ≤ 260 ∧
      resultNblk s.result = payloadBlocks (resultPoff s.result) ∧
      resultScrambled s.result = scrambledSc (resultSc s.result) ∧
      (resultProcessed s.result → resultScrambled s.result))

/-- The packet buffer is in its canonical form and lists nothing outside PKT's offsets (R62). -/
def State.bufferOk (s : State) : Prop :=
  s.mem.wf ∧ ∀ p ∈ s.mem, Config.pktOffset ≤ p.1 ∧ p.1 < Config.pktOffset + Config.pktLen

/-- What every step keeps. -/
def State.Inv (s : State) : Prop := s.contextOk ∧ s.resultOk ∧ s.bufferOk

/-! ### The end of a run -/

/-- R291: a run may end where no command is in flight (no state records a fault: a fault ends the machine's steps). -/
def State.ended (s : State) : Bool := s.inflight.isNone

/-- R291: the observation at the end of a run: the register window, word by word, and the hidden EK, DK and KEY. -/
def State.observation (s : State) :
    List Word × Vector Block 15 × Vector Block 15 × Vector Byte 32 :=
  ((List.range (Config.windowBytes / 4)).map fun k => s.windowRead (4 * k), s.ek, s.dk, s.key)

/-! ### Frames: what is as it was -/

/-- KEY and the cipher context are as they were. -/
def SameKeys (s t : State) : Prop :=
  t.key = s.key ∧ t.ek = s.ek ∧ t.dk = s.dk ∧ t.nr = s.nr ∧ t.klen = s.klen ∧
    t.schedValid = s.schedValid

/-- Every register of V but `vd` is as it was. -/
def SameVBut (vd : VReg) (s t : State) : Prop := ∀ j, j ≠ vd → t.readV j = s.readV j

/-- Every register of V is as it was. -/
def SameV (s t : State) : Prop := ∀ j, t.readV j = s.readV j

/-- Every byte of the packet buffer's address space is as it was. -/
def SameBuffer (s t : State) : Prop := ∀ a, t.mem.read a = s.mem.read a

/-- CAP, INFLIGHT (with it BUSY), the inputs and the values read are as they were: no command's meaning touches them. -/
def SameControl (s t : State) : Prop :=
  t.hwpath = s.hwpath ∧ t.inflight = s.inflight ∧ t.inputs = s.inputs ∧ t.returned = s.returned

/-- The frame of a command whose one destination is `V[vd]`: with STATUS.ERR, nothing else changes. -/
def OnlyVChanges (vd : VReg) (s t : State) : Prop :=
  SameVBut vd s t ∧ SameKeys s t ∧ SameBuffer s t ∧ t.result = s.result ∧ SameControl s t

/-- The frame of a packet command: with STATUS.ERR, RESULT and the packet buffer, nothing else changes. -/
def OnlyPacketChanges (s t : State) : Prop := SameV s t ∧ SameKeys s t ∧ SameControl s t

/-- The machine after `n` steps, up to its first fault or refusal. -/
def stepN : Nat → State → Host.Outcome State Fault Refusal
  | 0, s => .next s
  | n + 1, s =>
    match step s with
    | .next t => stepN n t
    | .fault r => .fault r
    | .refused r => .refused r

/-! ### The terms the statements share -/

/-- R98: `OP | VD << 8 | VS1 << 11 | VS2 << 14 | IMM8 << 24`. -/
def lineWord (op vd vs1 vs2 imm8 : Nat) : Word :=
  BitVec.ofNat 32 op ||| BitVec.ofNat 32 vd <<< 8 ||| BitVec.ofNat 32 vs1 <<< 11 |||
    BitVec.ofNat 32 vs2 <<< 14 ||| BitVec.ofNat 32 imm8 <<< 24

/-- The command `i` completes in `s` with ERR = 0, `V[vd]` takes the value `b`, and nothing else changes. -/
def WritesV (i : Instr) (s : State) (vd : VReg) (b : Block) : Prop :=
  ∃ t, exec i s = .next t ∧ t.readV vd = b ∧ t.err = .ok ∧ OnlyVChanges vd s t

/-- The command `i` completes in `s` with the code `e` in ERR, and nothing else changes (R241). -/
def RaisesOnly (i : Instr) (s : State) (e : ErrCode) : Prop :=
  exec i s = .next { s with err := e }

/-- Word `i` of the key schedule, read out of the round keys. -/
def expandedWord (key : Nat → Byte) (nk i : Nat) : Word :=
  blockWord (keyExpansion key nk (i / 4)) (i % 4)

/-- Commands one after another, up to the first that does not answer a next state. -/
def execAll : List Instr → State → Host.Outcome State Fault Refusal
  | [], s => .next s
  | i :: is, s =>
    match exec i s with
    | .next t => execAll is t
    | .fault r => .fault r
    | .refused r => .refused r

/-- R129, R130: each column of `t` is the product of the column of `s` with the matrix whose first row is `m0 m1 m2 m3`, each
later row the one above it moved one place to the right. -/
def ColumnProduct (m0 m1 m2 m3 : Byte) (s t : Block) : Prop :=
  ∀ c < 4,
    blockByte t (4 * c) =
        gfMul m0 (blockByte s (4 * c)) ^^^ gfMul m1 (blockByte s (4 * c + 1)) ^^^
          gfMul m2 (blockByte s (4 * c + 2)) ^^^ gfMul m3 (blockByte s (4 * c + 3)) ∧
      blockByte t (4 * c + 1) =
        gfMul m3 (blockByte s (4 * c)) ^^^ gfMul m0 (blockByte s (4 * c + 1)) ^^^
          gfMul m1 (blockByte s (4 * c + 2)) ^^^ gfMul m2 (blockByte s (4 * c + 3)) ∧
      blockByte t (4 * c + 2) =
        gfMul m2 (blockByte s (4 * c)) ^^^ gfMul m3 (blockByte s (4 * c + 1)) ^^^
          gfMul m0 (blockByte s (4 * c + 2)) ^^^ gfMul m1 (blockByte s (4 * c + 3)) ∧
      blockByte t (4 * c + 3) =
        gfMul m1 (blockByte s (4 * c)) ^^^ gfMul m2 (blockByte s (4 * c + 1)) ^^^
          gfMul m3 (blockByte s (4 * c + 2)) ^^^ gfMul m0 (blockByte s (4 * c + 3))

/-- R140: the sixteen bytes of `KeyGenAssist(s, rcon)`, in order. -/
def AssistBytes (s : Block) (rcon : Byte) : List Byte :=
  [sbox (blockByte s 4), sbox (blockByte s 5), sbox (blockByte s 6), sbox (blockByte s 7),
    sbox (blockByte s 5) ^^^ rcon, sbox (blockByte s 6), sbox (blockByte s 7), sbox (blockByte s 4),
    sbox (blockByte s 12), sbox (blockByte s 13), sbox (blockByte s 14), sbox (blockByte s 15),
    sbox (blockByte s 13) ^^^ rcon, sbox (blockByte s 14), sbox (blockByte s 15),
    sbox (blockByte s 12)]

/-- R189: the rounds 1 .. `n` of its command sequence. -/
def roundCommands (sel : RoundKeySel) (round : Instr) : Nat → List Instr
  | 0 => []
  | n + 1 => roundCommands sel round n ++ [.vldrk 1 sel (n + 1), round]

/-- R189: its command sequence for encryption, in a context of `nr` rounds. -/
def encryptionSequence (nr : Nat) : List Instr :=
  [.vldrk 1 .ek 0, .vxor 0 0 1] ++ roundCommands .ek (.aesenc 0 0 1) (nr - 1) ++
    [.vldrk 1 .ek nr, .aesenclast 0 0 1]

/-- R189: the same sequence with `dk`, `aesdec` and `aesdeclast`. -/
def decryptionSequence (nr : Nat) : List Instr :=
  [.vldrk 1 .dk 0, .vxor 0 0 1] ++ roundCommands .dk (.aesdec 0 0 1) (nr - 1) ++
    [.vldrk 1 .dk nr, .aesdeclast 0 0 1]

/-- R244: the one code a command reports, its conditions in the rule's order. -/
def reportedCode (s : State) : Instr → ErrCode
  | .derive klen =>
    if ¬(klen = 16 ∨ klen = 24 ∨ klen = 32) then .invalidKeySize
    else if s.schedValid then .contextActive else .ok
  | .encb _ _ => if s.schedValid then .ok else .noSchedule
  | .decb _ _ => if s.schedValid then .ok else .noSchedule
  | .zeroize => .ok
  | .pktdec =>
    if s.mem.pktByte 0 ≠ 0x47 then .badSync
    else if (s.mem.pktByte 3).getLsbD 7 ∧ ¬s.schedValid then .noSchedule else .ok
  | .pktchk => if s.mem.pktByte 0 ≠ 0x47 then .badSync else .ok
  | .aesenc _ _ _ => if s.hwpath then .ok else .illegal
  | .aesenclast _ _ _ => if s.hwpath then .ok else .illegal
  | .aesdec _ _ _ => if s.hwpath then .ok else .illegal
  | .aesdeclast _ _ _ => if s.hwpath then .ok else .illegal
  | .aesimc _ _ => if s.hwpath then .ok else .illegal
  | .aeskeygenassist _ _ _ => if s.hwpath then .ok else .illegal
  | .vxor _ _ _ => .ok
  | .vldrk _ _ idx =>
    if ¬s.schedValid then .noSchedule else if s.nr.toNat < idx then .badIndex else .ok

/-- R210: AFP of the packet in the buffer. -/
def State.afp (s : State) : Bool := (s.mem.pktByte 3).getLsbD 5

/-- R210: SC of the packet in the buffer. -/
def State.sc (s : State) : BitVec 2 := (s.mem.pktByte 3).extractLsb' 6 2

/-- R211: POFF of the packet in the buffer. -/
def State.poff (s : State) : Nat :=
  if s.afp then 5 + (s.mem.pktByte 4).toNat else 4

/-- R211: NBLK of the packet in the buffer. -/
def State.nblk (s : State) : Nat := (188 - s.poff) / 16

/-- RESULT reports the packet in `s`, with the given SYNC_OK = 1, SCRAMBLED and PROCESSED (R38, R213). -/
def Reports (s : State) (r : Word) (scrambled processed : Bool) : Prop :=
  resultSyncOk r = true ∧ resultScrambled r = scrambled ∧ resultProcessed r = processed ∧
    resultAfp r = s.afp ∧ resultSc r = s.sc ∧ resultPoff r = s.poff ∧ resultNblk r = s.nblk ∧
    resultReserved r = 0

/-- The engine moves next in `s`: its turn is the next input, or no input is left. -/
def EngineNext (s : State) : Prop :=
  s.inputs = [] ∨ s.inputs.head? = some .engine

end Sys2Proof.Machine
end

