-- ==== Sys2Proof/Certificates/Slice0/Obligations.lean ====
section
/-! DEFINITION. The statements for the provers, from the spec's numbered rules. Each says in its docstring which rule it
formalises; a reading of the model's own names its log entry. -/

open Sys2Proof Sys2Proof.Machine

/-! ### Encoding (30_encoding.md) -/

/-- R93, R98: decoding the word of a well-formed command gives the command back, every operand at every value. -/
def Obligations.DecodeInvertsEncode : Prop :=
  ∀ i : Instr, i.wellFormed = true → decode (encode i) = some i

/-- R93, R98: a word that decodes is the word of its command, so no bit of it is ignored. -/
def Obligations.EncodeInvertsDecode : Prop :=
  ∀ (w : Word) (i : Instr), decode w = some i → i.wellFormed = true ∧ encode i = w

/-- R93: a word decodes to a command exactly when it spells the row with that mnemonic, `w & mask = match`; the rows of the
hardware-intrinsic path are the primitives; every other word is illegal. -/
def Obligations.DecodeIsTheOpcodeMap : Prop :=
  (∀ (w : Word) (i : Instr), decode w = some i →
      ∃ r ∈ opcodeTable, r.mnemonic = i.mnemonic ∧ r.hwpathOnly = i.primitive ∧
        w &&& r.mask = r.pattern) ∧
    ∀ (w : Word), (∃ r ∈ opcodeTable, w &&& r.mask = r.pattern) → ∃ i, decode w = some i

/-- R94: executing a word is running the command that R94's `Decode` returns on this path, or raising ILLEGAL, which
changes nothing but STATUS.ERR. -/
def Obligations.ExecuteFollowsDecode : Prop :=
  ∀ (w : Word) (s : State),
    execute w s =
      match decodeOn s.hwpath w with
      | none => .next { s with err := .illegal }
      | some i => exec i s

/-- R95: an unassigned OP, a nonzero must-be-zero field, and a primitive's opcode on the portable path each raise ILLEGAL
and change no state but STATUS.ERR. -/
def Obligations.IllegalWordsChangeOnlyErr : Prop :=
  ∀ (w : Word) (s : State),
    ((∀ r ∈ opcodeTable, r.opcode ≠ opOf w) ∨
        (∃ r ∈ opcodeTable, r.opcode = opOf w ∧ w &&& r.mask ≠ r.pattern) ∨
        (∃ r ∈ opcodeTable, r.opcode = opOf w ∧ r.hwpathOnly = true ∧ s.hwpath = false)) →
      execute w s = .next { s with err := .illegal }

/-- R98: the encoding of a line, `OP | VD << 8 | VS1 << 11 | VS2 << 14 | IMM8 << 24` with unused fields 0. -/
def Obligations.EncodeIsTheLineFormula : Prop :=
  (∀ klen < 256, encode (.derive klen) = lineWord 0x01 0 0 0 klen) ∧
    (∀ vd vs : VReg,
      encode (.encb vd vs) = lineWord 0x02 vd vs 0 0 ∧
        encode (.decb vd vs) = lineWord 0x03 vd vs 0 0 ∧
        encode (.aesimc vd vs) = lineWord 0x24 vd vs 0 0) ∧
    (encode .zeroize = lineWord 0x04 0 0 0 0 ∧ encode .pktdec = lineWord 0x10 0 0 0 0 ∧
      encode .pktchk = lineWord 0x11 0 0 0 0) ∧
    (∀ vd vs1 vs2 : VReg,
      encode (.aesenc vd vs1 vs2) = lineWord 0x20 vd vs1 vs2 0 ∧
        encode (.aesenclast vd vs1 vs2) = lineWord 0x21 vd vs1 vs2 0 ∧
        encode (.aesdec vd vs1 vs2) = lineWord 0x22 vd vs1 vs2 0 ∧
        encode (.aesdeclast vd vs1 vs2) = lineWord 0x23 vd vs1 vs2 0 ∧
        encode (.vxor vd vs1 vs2) = lineWord 0x30 vd vs1 vs2 0) ∧
    (∀ (vd vs : VReg) (rcon : Byte),
      encode (.aeskeygenassist vd vs rcon) = lineWord 0x25 vd vs 0 rcon.toNat) ∧
    (∀ (vd : VReg), ∀ idx < 16,
      encode (.vldrk vd .ek idx) = lineWord 0x31 vd 0 0 idx ∧
        encode (.vldrk vd .dk idx) = lineWord 0x31 vd 0 0 (idx ||| 1 <<< 4))

/-- R98: the words of the rule's examples decode to the commands they are the examples of. -/
def Obligations.ExampleWordsDecode : Prop :=
  decode 0x10000001#32 = some (.derive 16) ∧ decode 0x00000102#32 = some (.encb 1 0) ∧
    decode 0x00000A03#32 = some (.decb 2 1) ∧ decode 0x00004020#32 = some (.aesenc 0 0 1) ∧
    decode 0x01000A25#32 = some (.aeskeygenassist 2 1 0x01) ∧
    decode 0x11000131#32 = some (.vldrk 1 .dk 1)

/-! ### The cipher functions (40_cipher_functions.md) -/

/-- R122: SBOX is the inverse in GF(2^8) (with that of 0 taken as 0) followed by the affine map with c = 0x63, every byte but
0 has an inverse, and INV_SBOX undoes SBOX. -/
def Obligations.SboxIsInverseThenAffine : Prop :=
  (∀ x y : Byte, (x = 0 ∧ y = 0) ∨ gfMul x y = 1 → ∀ i < 8,
      (sbox x).getLsbD i =
        (y.getLsbD i ^^ y.getLsbD ((i + 4) % 8) ^^ y.getLsbD ((i + 5) % 8) ^^
          y.getLsbD ((i + 6) % 8) ^^ y.getLsbD ((i + 7) % 8) ^^ (0x63#8).getLsbD i)) ∧
    (∀ x : Byte, x ≠ 0 → ∃ y, gfMul x y = 1) ∧
    ∀ x : Byte, invSbox (sbox x) = x

/-- R142: the identities of the transforms. -/
def Obligations.TransformIdentities : Prop :=
  ∀ s a b : Block,
    invShiftRows (shiftRows s) = s ∧ invSubBytes (subBytes s) = s ∧
      invMixColumns (mixColumns s) = s ∧
      invMixColumns (a ^^^ b) = invMixColumns a ^^^ invMixColumns b ∧
      subBytes (shiftRows s) = shiftRows (subBytes s)

/-- R121, R125 to R130: the transforms byte by byte (the byte maps of ShiftRows and InvShiftRows, the matrices of MixColumns
and InvMixColumns, and the multiplication they use). R130, R136, R137, and R184's corner case: InvMixColumns is undone by
MixColumns too, and the final inverse round undoes the final forward round once its key is taken off. -/
def Obligations.InverseTransformsCancel : Prop :=
  (∀ a : Byte, xtime a = a <<< 1 ^^^ if a.msb then 0x1B#8 else 0x00#8) ∧
    (∀ a : Byte, gfMul 0x01 a = a ∧ gfMul 0x02 a = xtime a) ∧
    (∀ a b c : Byte, gfMul (xtime a) c = xtime (gfMul a c) ∧
      gfMul (a ^^^ b) c = gfMul a c ^^^ gfMul b c) ∧
    (∀ (s : Block) (j : Fin 16),
      blockByte (subBytes s) j = sbox (blockByte s j) ∧
        blockByte (invSubBytes s) j = invSbox (blockByte s j) ∧
        blockByte (shiftRows s) j =
          blockByte s ([0, 5, 10, 15, 4, 9, 14, 3, 8, 13, 2, 7, 12, 1, 6, 11][j]) ∧
        blockByte (invShiftRows s) j =
          blockByte s ([0, 13, 10, 7, 4, 1, 14, 11, 8, 5, 2, 15, 12, 9, 6, 3][j])) ∧
    (∀ s : Block, ColumnProduct 0x02 0x03 0x01 0x01 s (mixColumns s) ∧
      ColumnProduct 0x0E 0x0B 0x0D 0x09 s (invMixColumns s)) ∧
    (∀ s : Block, mixColumns (invMixColumns s) = s) ∧
    (∀ s k : Block, decLast (encLast s k ^^^ k) 0 = s) ∧
    ∀ s k : Block, encLast (decLast s k ^^^ k) 0 = s

/-- R141: for every key of 16, 24 or 32 bytes InvCipher undoes Cipher and Cipher undoes InvCipher, on every block. -/
def Obligations.CipherRoundTrip : Prop :=
  ∀ (key : Nat → Byte) (klen : Nat), klen = 16 ∨ klen = 24 ∨ klen = 32 →
    ∀ p : Block,
      invCipher (decKeys (keyExpansion key (klen / 4)) (klen / 4 + 6)) (klen / 4 + 6)
          (cipher (keyExpansion key (klen / 4)) (klen / 4 + 6) p) = p ∧
        cipher (keyExpansion key (klen / 4)) (klen / 4 + 6)
          (invCipher (decKeys (keyExpansion key (klen / 4)) (klen / 4 + 6)) (klen / 4 + 6) p) = p

/-- R132: SubWord and RotWord byte by byte. R133: the ten round constants, and how each follows from the one before it. R134: the words of the expanded key, four to a
round key: the key's own words first, then each from the one before it and the one `nk` before it. -/
def Obligations.KeyExpansionFollowsTheLoop : Prop :=
  (∀ a0 a1 a2 a3 : Byte,
      subWord (a3 ++ a2 ++ a1 ++ a0) = sbox a3 ++ sbox a2 ++ sbox a1 ++ sbox a0 ∧
        rotWord (a3 ++ a2 ++ a1 ++ a0) = a0 ++ a3 ++ a2 ++ a1) ∧
    ((List.range 10).map fun i => roundConst (i + 1)) =
      [0x01, 0x02, 0x04, 0x08, 0x10, 0x20, 0x40, 0x80, 0x1B, 0x36] ∧
    (∀ i, 1 ≤ i → roundConst (i + 1) = xtime (roundConst i)) ∧
    (∀ i, rconWord (roundConst i) = 0x00#8 ++ 0x00#8 ++ 0x00#8 ++ roundConst i) ∧
  ∀ (key : Nat → Byte) (nk : Nat), nk = 4 ∨ nk = 6 ∨ nk = 8 →
    (∀ i < nk, ∀ k < 4, wordByte (expandedWord key nk i) k = key (4 * i + k)) ∧
      ∀ i, nk ≤ i → i < 4 * (nk + 7) →
        expandedWord key nk i =
          expandedWord key nk (i - nk) ^^^
            (if i % nk = 0 then
              subWord (rotWord (expandedWord key nk (i - 1))) ^^^ rconWord (roundConst (i / nk))
            else if nk = 8 ∧ i % nk = 4 then subWord (expandedWord key nk (i - 1))
            else expandedWord key nk (i - 1))

/-- R190: for AES-128, word 3 of KeyGenAssist of one round key gives the next round key. -/
def Obligations.KeyGenAssistGivesNextRoundKey : Prop :=
  ∀ (key : Nat → Byte) (r : Nat), 1 ≤ r → r ≤ 10 →
    let e := blockWord (keyExpansion key 4 (r - 1))
    let u := blockWord (keyGenAssist (keyExpansion key 4 (r - 1)) (roundConst r)) 3
    keyExpansion key 4 r =
      blockOfWords fun i =>
        if i = 0 then e 0 ^^^ u
        else if i = 1 then e 0 ^^^ e 1 ^^^ u
        else if i = 2 then e 0 ^^^ e 1 ^^^ e 2 ^^^ u
        else e 0 ^^^ e 1 ^^^ e 2 ^^^ e 3 ^^^ u

/-! ### Cipher-context and block commands (41_block_commands.md) -/

/-- R161 DERIVE: INVALID_KEY_SIZE, then CONTEXT_ACTIVE, each with nothing else changed; otherwise both schedules of
`KEY[0 .. klen-1]` in the slots 0 .. nr and 0 above, NR, KLEN, SCHED_VALID and ERR, and nothing else. -/
def Obligations.DeriveCommand : Prop :=
  ∀ (klen : Nat) (s : State),
    if ¬(klen = 16 ∨ klen = 24 ∨ klen = 32) then RaisesOnly (.derive klen) s .invalidKeySize
    else if s.schedValid then RaisesOnly (.derive klen) s .contextActive
    else
      ∃ t, exec (.derive klen) s = .next t ∧ t.err = .ok ∧ t.schedValid = true ∧
        t.klen.toNat = klen ∧ t.nr.toNat = klen / 4 + 6 ∧
        (∀ r < 15, t.ekAt r =
          if r ≤ klen / 4 + 6 then keyExpansion s.keyByte (klen / 4) r else 0) ∧
        (∀ r < 15, t.dkAt r =
          if r ≤ klen / 4 + 6 then
            decKeys (keyExpansion s.keyByte (klen / 4)) (klen / 4 + 6) r
          else 0) ∧
        t.key = s.key ∧ SameV s t ∧ SameBuffer s t ∧ t.result = s.result ∧ SameControl s t

/-- R161, corner cases: KEY bytes at index klen and above are ignored: two states that agree on the others derive the same
schedules. -/
def Obligations.DeriveIgnoresBytesPastKlen : Prop :=
  ∀ (klen : Nat) (s s' t t' : State), klen = 16 ∨ klen = 24 ∨ klen = 32 →
    s.schedValid = false → s'.schedValid = false →
    (∀ j < klen, s.keyByte j = s'.keyByte j) →
    exec (.derive klen) s = .next t → exec (.derive klen) s' = .next t' →
      t.ek = t'.ek ∧ t.dk = t'.dk

/-- R162 ENCB: NO_SCHEDULE with nothing else changed; otherwise `V[vd]` is the cipher of the old `V[vs]`, and nothing else. -/
def Obligations.EncbCommand : Prop :=
  ∀ (vd vs : VReg) (s : State),
    if s.schedValid then WritesV (.encb vd vs) s vd (cipher s.ekAt s.nr.toNat (s.readV vs))
    else RaisesOnly (.encb vd vs) s .noSchedule

/-- R163 DECB: NO_SCHEDULE with nothing else changed; otherwise `V[vd]` is the inverse cipher of the old `V[vs]`, and
nothing else. -/
def Obligations.DecbCommand : Prop :=
  ∀ (vd vs : VReg) (s : State),
    if s.schedValid then WritesV (.decb vd vs) s vd (invCipher s.dkAt s.nr.toNat (s.readV vs))
    else RaisesOnly (.decb vd vs) s .noSchedule

/-- R163, corner cases: DECB after ENCB with the same context returns the plaintext, for every block, and the other way
round. -/
def Obligations.DecbUndoesEncb : Prop :=
  ∀ (s : State) (va vb vc : VReg), s.contextOk → s.schedValid = true →
    (∃ t u, exec (.encb vb va) s = .next t ∧ exec (.decb vc vb) t = .next u ∧
      u.readV vc = s.readV va ∧ u.err = .ok) ∧
    ∃ t u, exec (.decb vb va) s = .next t ∧ exec (.encb vc vb) t = .next u ∧
      u.readV vc = s.readV va ∧ u.err = .ok

/-- R164 ZEROIZE: KEY, EK, DK, every V, NR, KLEN and SCHED_VALID are zero, ERR is OK, in every state; PKT, RESULT and the rest
stay. -/
def Obligations.ZeroizeCommand : Prop :=
  ∀ s : State, ∃ t, exec .zeroize s = .next t ∧
    (∀ j < 32, t.keyByte j = 0) ∧ (∀ r < 15, t.ekAt r = 0 ∧ t.dkAt r = 0) ∧
    (∀ n, t.readV n = 0) ∧ t.nr = 0 ∧ t.klen = 0 ∧ t.schedValid = false ∧ t.err = .ok ∧
    SameBuffer s t ∧ t.result = s.result ∧ SameControl s t

/-- R165: every command but the six primitives gives the same state on both paths. -/
def Obligations.PathsAreEquivalent : Prop :=
  ∀ (i : Instr) (s t : State) (path : Bool), i.primitive = false → exec i s = .next t →
    exec i { s with hwpath := path } = .next { t with hwpath := path }

/-- R166: a round key above slot NR, or any without a context, has no part in what a command does: of every command but DERIVE
and ZEROIZE, which only write round keys. -/
def Obligations.RoundKeysAboveNrAreNotRead : Prop :=
  ∀ (i : Instr) (s t : State) (ek dk : Vector Block 15), (∀ klen, i ≠ .derive klen) → i ≠ .zeroize →
    (s.schedValid = true → ∀ r ≤ s.nr.toNat, slot ek r = s.ekAt r ∧ slot dk r = s.dkAt r) →
    exec i s = .next t →
      exec i { s with ek := ek, dk := dk } = .next { t with ek := ek, dk := dk }

/-! ### Hardware-intrinsic primitives and data moves (42_round_primitives.md) -/

/-- R180: on the portable path each primitive raises ILLEGAL and changes nothing else; on the hardware path it ends with
ERR = 0 and the cipher context has no part in it. -/
def Obligations.PrimitivesNeedTheHardwarePath : Prop :=
  ∀ (i : Instr) (s : State), i.primitive = true →
    (s.hwpath = false → RaisesOnly i s .illegal) ∧
      (s.hwpath = true → ∃ t, exec i s = .next t ∧ t.err = .ok ∧
        ∀ (ek dk : Vector Block 15) (nr klen : Byte) (valid : Bool),
          exec i { s with ek := ek, dk := dk, nr := nr, klen := klen, schedValid := valid } =
            .next { t with ek := ek, dk := dk, nr := nr, klen := klen, schedValid := valid })

/-- R181 AESENC, R182 AESENCLAST, R183 AESDEC, R184 AESDECLAST: `V[vd]` is the round function of the old `V[vs1]` and
`V[vs2]` on the hardware path, ILLEGAL on the portable one, and nothing else changes. -/
def Obligations.RoundCommands : Prop :=
  ∀ (vd vs1 vs2 : VReg) (s : State),
    if s.hwpath then
      WritesV (.aesenc vd vs1 vs2) s vd
          (mixColumns (subBytes (shiftRows (s.readV vs1))) ^^^ s.readV vs2) ∧
        WritesV (.aesenclast vd vs1 vs2) s vd
          (subBytes (shiftRows (s.readV vs1)) ^^^ s.readV vs2) ∧
        WritesV (.aesdec vd vs1 vs2) s vd
          (invMixColumns (invSubBytes (invShiftRows (s.readV vs1))) ^^^ s.readV vs2) ∧
        WritesV (.aesdeclast vd vs1 vs2) s vd
          (invSubBytes (invShiftRows (s.readV vs1)) ^^^ s.readV vs2)
    else
      RaisesOnly (.aesenc vd vs1 vs2) s .illegal ∧ RaisesOnly (.aesenclast vd vs1 vs2) s .illegal ∧
        RaisesOnly (.aesdec vd vs1 vs2) s .illegal ∧
        RaisesOnly (.aesdeclast vd vs1 vs2) s .illegal

/-- R185 AESIMC, R186 AESKEYGENASSIST: `V[vd]` is InvMixColumns of the old `V[vs]`, or its key-generation assist with any
`rcon`, on the hardware path; ILLEGAL on the portable one; nothing else changes. The two results are written out, column by
column (R130) and byte by byte (R140). -/
def Obligations.KeyScheduleCommands : Prop :=
  ∀ (vd vs : VReg) (rcon : Byte) (s : State),
    ColumnProduct 0x0E 0x0B 0x0D 0x09 (s.readV vs) (invMixColumns (s.readV vs)) ∧
    (List.range 16).map (blockByte (keyGenAssist (s.readV vs) rcon)) =
      AssistBytes (s.readV vs) rcon ∧
    if s.hwpath then
      WritesV (.aesimc vd vs) s vd (invMixColumns (s.readV vs)) ∧
        WritesV (.aeskeygenassist vd vs rcon) s vd (keyGenAssist (s.readV vs) rcon)
    else
      RaisesOnly (.aesimc vd vs) s .illegal ∧ RaisesOnly (.aeskeygenassist vd vs rcon) s .illegal

/-- R187 VXOR, byte by byte, with `vxor vd, vs, vs` giving 0; on both paths, in every state, and nothing else changes. -/
def Obligations.VxorCommand : Prop :=
  ∀ (vd vs1 vs2 : VReg) (s : State),
    ∃ t, exec (.vxor vd vs1 vs2) s = .next t ∧ t.err = .ok ∧ OnlyVChanges vd s t ∧
      (∀ j < 16, blockByte (t.readV vd) j =
        blockByte (s.readV vs1) j ^^^ blockByte (s.readV vs2) j) ∧
      (vs1 = vs2 → t.readV vd = 0)

/-- R188 VLDRK: NO_SCHEDULE, then BAD_INDEX, each with nothing else changed; otherwise `V[vd]` is EK[idx] or DK[idx] and
nothing else changes. -/
def Obligations.VldrkCommand : Prop :=
  ∀ (vd : VReg) (sel : RoundKeySel) (idx : Nat) (s : State),
    if ¬s.schedValid then RaisesOnly (.vldrk vd sel idx) s .noSchedule
    else if s.nr.toNat < idx then RaisesOnly (.vldrk vd sel idx) s .badIndex
    else WritesV (.vldrk vd sel idx) s vd (if sel = .dk then s.dkAt idx else s.ekAt idx)

/-- R188, corner cases: in a context EK[0] is the first 16 key bytes, DK[0] is EK[NR] and DK[NR] is EK[0]. -/
def Obligations.EndRoundKeys : Prop :=
  ∀ s : State, s.contextOk → s.schedValid = true →
    (∀ j < 16, blockByte (s.ekAt 0) j = s.keyByte j) ∧ s.dkAt 0 = s.ekAt s.nr.toNat ∧
      s.dkAt s.nr.toNat = s.ekAt 0

/-- R189: in a context on the hardware path the rule's two command sequences leave in `V[0]` what ENCB and DECB leave
there, and AESIMC of EK[NR-i] is DK[i]. -/
def Obligations.PrimitiveSequencesMatchTheCipher : Prop :=
  ∀ s : State, s.contextOk → s.schedValid = true → s.hwpath = true →
    (∃ t u, execAll (encryptionSequence s.nr.toNat) s = .next t ∧ exec (.encb 0 0) s = .next u ∧
      t.readV 0 = cipher s.ekAt s.nr.toNat (s.readV 0) ∧ t.readV 0 = u.readV 0) ∧
    (∃ t u, execAll (decryptionSequence s.nr.toNat) s = .next t ∧ exec (.decb 0 0) s = .next u ∧
      t.readV 0 = invCipher s.dkAt s.nr.toNat (s.readV 0) ∧ t.readV 0 = u.readV 0) ∧
    ∀ i, 1 ≤ i → i ≤ s.nr.toNat - 1 → invMixColumns (s.ekAt (s.nr.toNat - i)) = s.dkAt i

/-! ### The packet commands (43_packet_commands.md) -/

/-- R211, R212: POFF is 4 to 260 and NBLK 0 to 11, every block of the payload lies inside the packet, and the residue is
less than a block. R212 writes `poff + 16·nblk ≤ 188`, which R211's POFF of 189 to 260 (with no block) exceeds: it is read
as a bound on the blocks (log entry 6). -/
def Obligations.PayloadLiesInThePacket : Prop :=
  ∀ s : State,
    (parseHeader s.mem).poff = s.poff ∧ (parseHeader s.mem).nblk = s.nblk ∧
      4 ≤ s.poff ∧ s.poff ≤ 260 ∧ s.nblk ≤ 11 ∧ (∀ k < s.nblk, s.poff + 16 * k + 15 ≤ 187) ∧
      (s.poff < 188 → s.poff + 16 * s.nblk ≤ 188 ∧ 188 - (s.poff + 16 * s.nblk) ≤ 15) ∧
      (188 ≤ s.poff → s.nblk = 0)

/-- R213 PKTDEC on a sync-valid scrambled packet with a context: payload block `k` is the inverse cipher of the old block
`k`, PKT[3] loses its bits 7:6, every other byte of the buffer stays, RESULT reports the packet with PROCESSED = 1, ERR is
OK, and nothing else changes. -/
def Obligations.PktdecDecryptsPayload : Prop :=
  ∀ s : State, s.mem.wf → s.mem.pktByte 0 = 0x47 → (s.mem.pktByte 3).getLsbD 7 = true →
    s.schedValid = true →
    ∃ t, exec .pktdec s = .next t ∧ t.err = .ok ∧ Reports s t.result true true ∧
      OnlyPacketChanges s t ∧
      (∀ k < s.nblk,
        t.mem.pktBlock (s.poff + 16 * k) =
          invCipher s.dkAt s.nr.toNat (s.mem.pktBlock (s.poff + 16 * k))) ∧
      t.mem.pktByte 3 = s.mem.pktByte 3 &&& 0x3F ∧
      ∀ a, a ≠ Config.pktOffset + 3 →
        ¬(Config.pktOffset + s.poff ≤ a ∧ a < Config.pktOffset + s.poff + 16 * s.nblk) →
        t.mem.read a = s.mem.read a

/-- R213 PKTDEC where it decrypts nothing: BAD_SYNC with RESULT = 0; the skip of an unscrambled packet, which needs no
context; NO_SCHEDULE of a scrambled one, with RESULT written before the raise. No byte of the buffer changes, and nothing
else but RESULT and ERR does. -/
def Obligations.PktdecWithoutDecryption : Prop :=
  ∀ s : State,
    (s.mem.pktByte 0 ≠ 0x47 ∨ (s.mem.pktByte 3).getLsbD 7 = false ∨ s.schedValid = false) →
    ∃ t, exec .pktdec s = .next t ∧ OnlyPacketChanges s t ∧ SameBuffer s t ∧
      if s.mem.pktByte 0 ≠ 0x47 then t.result = 0 ∧ t.err = .badSync
      else if (s.mem.pktByte 3).getLsbD 7 = false then
        Reports s t.result false false ∧ t.err = .ok
      else Reports s t.result true false ∧ t.err = .noSchedule

/-- R214 PKTCHK: BAD_SYNC with RESULT = 0, otherwise RESULT reports the packet with PROCESSED = 0 and ERR is OK; no byte of
the buffer changes, and nothing else does. -/
def Obligations.PktchkCommand : Prop :=
  ∀ s : State, ∃ t, exec .pktchk s = .next t ∧ OnlyPacketChanges s t ∧ SameBuffer s t ∧
    if s.mem.pktByte 0 ≠ 0x47 then t.result = 0 ∧ t.err = .badSync
    else Reports s t.result ((s.mem.pktByte 3).getLsbD 7) false ∧ t.err = .ok

/-- R213, corner cases: after PKTDEC took the scrambled path a second PKTDEC takes the skip path: SC reads 00, PROCESSED is 0,
ERR is OK and no byte changes. -/
def Obligations.SecondPktdecSkips : Prop :=
  ∀ s t : State, s.mem.wf → s.mem.pktByte 0 = 0x47 → (s.mem.pktByte 3).getLsbD 7 = true →
    s.schedValid = true → exec .pktdec s = .next t →
    ∃ u, exec .pktdec t = .next u ∧ SameBuffer t u ∧ u.err = .ok ∧ resultSc u.result = 0 ∧
      resultProcessed u.result = false ∧ resultSyncOk u.result = true

/-- R215: no chaining: the new block `k` depends only on the old block `k`, DK and NR. -/
def Obligations.PktdecDoesNotChain : Prop :=
  ∀ s s' t t' : State, s.mem.wf → s'.mem.wf →
    s.mem.pktByte 0 = 0x47 → s'.mem.pktByte 0 = 0x47 →
    (s.mem.pktByte 3).getLsbD 7 = true → (s'.mem.pktByte 3).getLsbD 7 = true →
    s.schedValid = true → s'.schedValid = true → s.dk = s'.dk → s.nr = s'.nr →
    exec .pktdec s = .next t → exec .pktdec s' = .next t' →
    ∀ k k', k < s.nblk → k' < s'.nblk →
      s.mem.pktBlock (s.poff + 16 * k) = s'.mem.pktBlock (s'.poff + 16 * k') →
      t.mem.pktBlock (s.poff + 16 * k) = t'.mem.pktBlock (s'.poff + 16 * k')

/-- R216: PKTCHK reads the packet bytes 0, 3 and 4 alone: with these equal, RESULT and ERR are equal. -/
def Obligations.PktchkReadsTheHeaderAlone : Prop :=
  ∀ s s' t t' : State, s.mem.pktByte 0 = s'.mem.pktByte 0 → s.mem.pktByte 3 = s'.mem.pktByte 3 →
    s.mem.pktByte 4 = s'.mem.pktByte 4 →
    exec .pktchk s = .next t → exec .pktchk s' = .next t' → t.result = t'.result ∧ t.err = t'.err

/-- R217: on a sync-valid packet, given a context, PKTDEC never fails; the only error it can raise is NO_SCHEDULE. -/
def Obligations.PktdecNeverFailsPastSync : Prop :=
  ∀ s : State, s.mem.pktByte 0 = 0x47 →
    ∃ t, exec .pktdec s = .next t ∧ (s.schedValid = true → t.err = .ok) ∧
      (t.err = .ok ∨ t.err = .noSchedule)

/-! ### Status words and errors (10_state.md, 60_exceptions.md) -/

/-- R35: the fields of STATUS stand where the table says, BUSY is 1 exactly when a command is in flight, and the reserved
bits are 0. R242: the codes of ERR. -/
def Obligations.StatusLayout : Prop :=
  ([.ok, .illegal, .invalidKeySize, .noSchedule, .contextActive, .badIndex, .badSync].map errNumber =
      [0, 1, 2, 3, 4, 5, 6]) ∧
  ∀ s : State,
    s.statusWord.getLsbD 0 = s.inflight.isSome ∧ s.statusWord.getLsbD 1 = s.schedValid ∧
      s.statusWord.extractLsb' 2 2 = 0 ∧ s.statusWord.extractLsb' 4 4 = errNumber s.err ∧
      s.statusWord.extractLsb' 8 8 = s.nr ∧ s.statusWord.extractLsb' 16 8 = s.klen ∧
      s.statusWord.extractLsb' 24 8 = 0

/-- R38, R213: `Pack` puts the fields of RESULT where the table says, for every POFF and NBLK their fields hold, and leaves the
reserved bits 0. -/
def Obligations.ResultLayout : Prop :=
  ∀ (sync scr proc afp : Bool) (sc : BitVec 2) (poff nblk : Nat), poff < 512 → nblk < 16 →
    resultSyncOk (packResult sync scr proc afp sc poff nblk) = sync ∧
      resultScrambled (packResult sync scr proc afp sc poff nblk) = scr ∧
      resultProcessed (packResult sync scr proc afp sc poff nblk) = proc ∧
      resultAfp (packResult sync scr proc afp sc poff nblk) = afp ∧
      resultSc (packResult sync scr proc afp sc poff nblk) = sc ∧
      resultPoff (packResult sync scr proc afp sc poff nblk) = poff ∧
      resultNblk (packResult sync scr proc afp sc poff nblk) = nblk ∧
      resultReserved (packResult sync scr proc afp sc poff nblk) = 0

/-- R244: a command reports exactly one code, the first in the rule's order; an illegal word reports ILLEGAL. -/
def Obligations.OneCodeInPriorityOrder : Prop :=
  ∀ (w : Word) (s : State), ∃ t, execute w s = .next t ∧
    t.err =
      match decode w with
      | none => .illegal
      | some i => reportedCode s i

/-- R241: a command that raises writes its code, and with it BUSY and INFLIGHT end; no other state is written, except RESULT by
the two packet commands. -/
def Obligations.RaisingWritesOnlyTheCode : Prop :=
  ∀ (w : Word) (s t : State), s.inflight = some w → engineStep s = .next t → t.err ≠ .ok →
    t.busy = false ∧
      (t = { s with err := t.err, inflight := none } ∨
        ((decode w = some .pktdec ∨ decode w = some .pktchk) ∧
          t = { s with err := t.err, inflight := none, result := t.result }))

/-- R36: STATUS.ERR changes only where the engine completes a command or a reset arrives; no access of the host writes it. -/
def Obligations.ErrChangesOnlyAtCompletion : Prop :=
  ∀ s t : State, step s = .next t →
    t.err = s.err ∨ (EngineNext s ∧ s.inflight.isSome = true ∧ t.inflight = none) ∨
      s.inputs.head? = some .reset

/-- R245 (with R63, R64, R65, R253, R286): the accesses the block gives no meaning: not 32 bits wide, misaligned, outside
the window, anything but a STATUS read while BUSY = 1; and any access of a second host. R66, R67: the order of the checks,
and that every other access answers. That a second host's access is refused whatever its width, its offset and BUSY are, is
the model's choice (log entry 11): R245 gives it no order among the other cases. -/
def Obligations.AccessesOutsideTheInterface : Prop :=
  (∀ (width off : Nat) (v : Word) (s : State), width ≠ 4 →
      hostAccess (.read width off) s = .fault .busWidth ∧
        hostAccess (.write width off v) s = .fault .busWidth) ∧
    (∀ (off : Nat) (v : Word) (s : State), off % 4 ≠ 0 →
      hostAccess (.read 4 off) s = .fault .busAlign ∧
        hostAccess (.write 4 off v) s = .fault .busAlign) ∧
    (∀ (off : Nat) (v : Word) (s : State), off % 4 = 0 → 0x400 ≤ off →
      hostAccess (.read 4 off) s = .refused .outsideWindow ∧
        hostAccess (.write 4 off v) s = .refused .outsideWindow) ∧
    (∀ (off : Nat) (v : Word) (s : State), off % 4 = 0 → off < 0x400 → s.busy = true →
      (off ≠ 0x004 → hostAccess (.read 4 off) s = .fault .protocol) ∧
        hostAccess (.write 4 off v) s = .fault .protocol) ∧
    (∀ (a : Access) (is : List Input) (s : State), s.inputs = .secondHost a :: is →
      step s = .refused .secondHost) ∧
    ∀ (a : Access) (s : State), a.allowed s = true ↔ ∃ t, hostAccess a s = .next t

/-! ### The register window (20_memory.md) -/

/-- R61, R62, R66, R67: a word written to the window of V or of PKT reads back, and every other word of the window reads as
before. The word at 0x100 + 16n + 4k is bytes 4k .. 4k+3 of V[n] and the one at 0x200 + 4k is PKT[4k .. 4k+3], the least
significant byte first; every other byte of V, of the packet buffer and all else of the state, KEY, EK and DK among it,
stays. -/
def Obligations.WrittenWordReadsBack : Prop :=
  ∀ (s : State) (w : Word), s.mem.wf → s.busy = false →
    (∀ off, off % 4 = 0 → (0x100 ≤ off ∧ off ≤ 0x17C) ∨ (0x200 ≤ off ∧ off ≤ 0x2B8) →
      ∃ t, memWrite 4 off w s = .next t ∧ memRead 4 off t = .next w ∧
        ∀ off', off' % 4 = 0 → off' ≠ off → t.windowRead off' = s.windowRead off') ∧
    (∀ (n : VReg), ∀ k < 4,
      ∃ t, memWrite 4 (0x100 + 16 * n.val + 4 * k) w s = .next t ∧ t = { s with v := t.v } ∧
        SameVBut n s t ∧
        ∀ j < 16, (t.readV n).extractLsb' (8 * j) 8 =
          if j / 4 = k then w.extractLsb' (8 * (j % 4)) 8 else (s.readV n).extractLsb' (8 * j) 8) ∧
    ∀ k < 47,
      ∃ t, memWrite 4 (0x200 + 4 * k) w s = .next t ∧ t = { s with mem := t.mem } ∧
        ∀ a, t.mem.read a =
          if 0x200 + 4 * k ≤ a ∧ a < 0x200 + 4 * k + 4 then
            w.extractLsb' (8 * (a - (0x200 + 4 * k))) 8
          else s.mem.read a

/-- R69: KEY words read 0 whatever KEY holds; a write sets the word's four bytes and no other when SCHED_VALID = 0, and is
ignored when it is 1. -/
def Obligations.KeyIsWriteOnlyAndFrozen : Prop :=
  ∀ (s : State) (k : Nat) (w : Word), k < 8 → s.busy = false →
    memRead 4 (0x040 + 4 * k) s = .next 0 ∧
      ∃ t, memWrite 4 (0x040 + 4 * k) w s = .next t ∧
        if s.schedValid then t = s
        else
          (∀ j < 32, t.keyByte j = if j / 4 = k then wordByte w (j % 4) else s.keyByte j) ∧
            t = { s with key := t.key }

/-- R70: a read changes no state of the block, whatever it reads; the model's own record of it takes the value (log entry 8).
R66, with R34, R35, R37, R38 and R61: with BUSY = 0 the value of a read of CAP, STATUS, CMD, RESULT, and of each word of V and
of PKT. -/
def Obligations.ReadsHaveNoSideEffect : Prop :=
  (∀ (width off : Nat) (s t : State), hostAccess (.read width off) s = .next t →
    memRead width off s = .next (s.windowRead off) ∧
      t = { s with returned := s.windowRead off :: s.returned }) ∧
  ∀ s : State, s.busy = false →
    memRead 4 0x000 s = .next (0#31 ++ BitVec.ofBool s.hwpath) ∧
      memRead 4 0x004 s =
        .next (0#8 ++ s.klen ++ s.nr ++ errNumber s.err ++ 0#2 ++ BitVec.ofBool s.schedValid ++ 0#1) ∧
      memRead 4 0x008 s = .next 0 ∧
      memRead 4 0x00C s = .next s.result ∧
      (∀ (n : VReg), ∀ k < 4,
        memRead 4 (0x100 + 16 * n.val + 4 * k) s = .next ((s.readV n).extractLsb' (32 * k) 32)) ∧
      ∀ k < 47,
        memRead 4 (0x200 + 4 * k) s =
          .next (s.mem.read (0x203 + 4 * k) ++ s.mem.read (0x202 + 4 * k) ++
            s.mem.read (0x201 + 4 * k) ++ s.mem.read (0x200 + 4 * k))

/-- R68: reserved offsets read as 0 and ignore writes, and the read-only registers ignore writes. -/
def Obligations.ReservedOffsetsReadZero : Prop :=
  ∀ (s : State) (off : Nat) (w : Word), s.busy = false → off % 4 = 0 →
    ((0x010 ≤ off ∧ off ≤ 0x03F) ∨ (0x060 ≤ off ∧ off ≤ 0x0FF) ∨ (0x180 ≤ off ∧ off ≤ 0x1FF) ∨
        (0x2BC ≤ off ∧ off ≤ 0x3FF) →
      memRead 4 off s = .next 0 ∧ memWrite 4 off w s = .next s) ∧
    (off = 0x000 ∨ off = 0x004 ∨ off = 0x00C → memWrite 4 off w s = .next s)

/-- R60, R65 and the parameter BASE: an access the platform's bus carries is the access at its offset from BASE. That one below
BASE is refused as one past the window is, is the model's choice (log entry 5). R30, R71: where the next input is an access,
at an offset or on the bus, the step is that access, from the state less the input (log entry 2). -/
def Obligations.WindowStandsAtBase : Prop :=
  (∀ (s : State) (a : Access) (is : List Input),
      (s.inputs = .access a :: is → step s = hostAccess a (s.setInputs is)) ∧
        (s.inputs = .bus a :: is → step s = busAccess a (s.setInputs is))) ∧
  ∀ (width off addr : Nat) (v : Word) (s : State),
    busAccess (.read width (Config.base + off)) s = hostAccess (.read width off) s ∧
      busAccess (.write width (Config.base + off) v) s = hostAccess (.write width off v) s ∧
      (addr < Config.base →
        busAccess (.read width addr) s = .refused .outsideWindow ∧
          busAccess (.write width addr v) s = .refused .outsideWindow)

/-! ### The host's duties (60_exceptions.md) -/

/-- R262: the key byte of container index `j` lands at `(j & 0xC) + (3 - (j & 3))`, and KEY word `k` is the big-endian reading of
container bytes 8+4k .. 11+4k. -/
def Obligations.KeyReordering : Prop :=
  ∀ container : Nat → Byte,
    (∀ j < 16, keyFromContainer container ((j &&& 0xC) + (3 - (j &&& 3))) = container (8 + j)) ∧
      ∀ k < 4, (wordOfBytes fun i => keyFromContainer container (4 * k + i)) =
        container (8 + 4 * k) ++ container (9 + 4 * k) ++ container (10 + 4 * k) ++
          container (11 + 4 * k)

/-! ### Reset, the handshake and the step (70_reset_and_hazards.md) -/

/-- R46, R280, R282: from every state, a command in flight included, a reset gives every piece of the block's state its reset
value. -/
def Obligations.ResetGivesTheResetValues : Prop :=
  ∀ (s : State) (is : List Input), s.inputs = .reset :: is →
    ∃ t, step s = .next t ∧ t.hwpath = Config.hwpath ∧ t.busy = false ∧ t.inflight = none ∧
      t.schedValid = false ∧ t.nr = 0 ∧ t.klen = 0 ∧ t.err = .ok ∧ t.result = 0 ∧
      (∀ j < 32, t.keyByte j = 0) ∧ (∀ r < 15, t.ekAt r = 0 ∧ t.dkAt r = 0) ∧
      (∀ n, t.readV n = 0) ∧ ∀ j < 188, t.mem.pktByte j = 0

/-- R34, R281: CAP.HWPATH keeps its value, and only a reset gives it one, the parameter's. -/
def Obligations.CapIsLatched : Prop :=
  ∀ s t : State, step s = .next t →
    if s.inputs.head? = some .reset then t.hwpath = Config.hwpath else t.hwpath = s.hwpath

/-- R284: a CMD write with BUSY = 0 sets INFLIGHT and with it BUSY, and does nothing else. -/
def Obligations.CmdWriteIssues : Prop :=
  ∀ (s : State) (w : Word), s.busy = false →
    ∃ t, memWrite 4 0x008 w s = .next t ∧ t = { s with inflight := some w } ∧ t.busy = true

/-- R286: a STATUS read while BUSY = 1 returns BUSY = 1 and the pre-command values of the other fields, and changes nothing. -/
def Obligations.StatusReadWhileBusy : Prop :=
  ∀ (s : State) (w : Word), s.inflight = some w →
    ∃ r t, memRead 4 0x004 s = .next r ∧ hostAccess (.read 4 0x004) s = .next t ∧
      t = { s with returned := r :: s.returned } ∧ r.getLsbD 0 = true ∧
      r = ({ s with inflight := none } : State).statusWord ||| 1

/-- R285, R287: when the engine moves next the step executes the word in flight in one piece and then ends BUSY and INFLIGHT:
for every word; for one that is illegal, which raises ILLEGAL and changes nothing else; and for one that decodes to a
command, by that command's meaning. When the engine moves next is read off the inputs (log entry 2). -/
def Obligations.StepRunsTheDecodedCommand : Prop :=
  (∀ (s : State) (w : Word), EngineNext s → s.inflight = some w →
      step s = mapNext State.retire (execute w (s.setInputs s.inputs.tail)) ∧
        (decode w = none →
          step s =
            .next { s with inputs := s.inputs.tail, err := .illegal, inflight := none })) ∧
    ∀ (s t : State) (w : Word) (i : Instr), EngineNext s → s.inflight = some w → decode w = some i →
      exec i (s.setInputs s.inputs.tail) = .next t →
      step s = .next { t with inflight := none } ∧
        ({ t with inflight := none } : State).busy = false

/-- R255: with no command in flight the engine's turn changes nothing. That the machine then takes a step at all is the model's
choice (log entry 1). -/
def Obligations.IdleBlockKeepsItsState : Prop :=
  ∀ s : State, EngineNext s → s.inflight = none → step s = .next (s.setInputs s.inputs.tail)

/-- R261, R288: while the host only polls STATUS the command in flight completes: after one step more than the inputs there
are, BUSY = 0, whatever the order of the engine's turn among them. That the inputs end, so that the engine's step
happens, is how the model takes R288's weak fairness (log entry 2). -/
def Obligations.PollingTerminates : Prop :=
  ∀ s : State, (∀ i ∈ s.inputs, i.polling = true) →
    ∃ t, stepN (s.inputs.length + 1) s = .next t ∧ t.busy = false

/-! ### What every step keeps -/

/-- R46: the machine after reset meets the invariant. -/
def Obligations.ResetMeetsTheInvariant : Prop := State.reset.Inv

/-- R38, R39, R40, R41, R42: every step keeps the invariant: the context is the schedule of the key in KEY or absent and zero,
RESULT is a report or 0, and the packet buffer is in canonical form inside PKT. -/
def Obligations.StepKeepsTheInvariant : Prop :=
  ∀ s t : State, s.Inv → step s = .next t → t.Inv

/-- R41: while SCHED_VALID = 1 a step leaves EK, DK, NR, KLEN (and KEY) as they are, unless ZEROIZE or a reset ends the context;
and only a DERIVE creates one. -/
def Obligations.ContextIsImmutable : Prop :=
  ∀ s t : State, step s = .next t →
    (s.schedValid = true →
      SameKeys s t ∨ s.inputs.head? = some .reset ∨
        ∃ w, EngineNext s ∧ s.inflight = some w ∧ decode w = some .zeroize) ∧
    (s.schedValid = false → t.schedValid = true →
      ∃ w klen, EngineNext s ∧ s.inflight = some w ∧ decode w = some (.derive klen) ∧
        validKlen klen = true)

/-- R38, R42: RESULT is written by PKTDEC and PKTCHK alone, and a byte of PKT by PKTDEC and the host's writes of PKT words
alone, each at the offset and with the word of the input it takes, but for a reset. -/
def Obligations.PacketStateWriters : Prop :=
  ∀ s t : State, step s = .next t →
    (t.result = s.result ∨ s.inputs.head? = some .reset ∨
      ∃ w, EngineNext s ∧ s.inflight = some w ∧
        (decode w = some .pktdec ∨ decode w = some .pktchk)) ∧
    (SameBuffer s t ∨ s.inputs.head? = some .reset ∨
      (∃ w, EngineNext s ∧ s.inflight = some w ∧ decode w = some .pktdec) ∨
      s.inflight = none ∧ ∃ off w, inPkt off = true ∧
        (s.inputs.head? = some (.access (.write 4 off w)) ∨
          s.inputs.head? = some (.bus (.write 4 (Config.base + off) w))) ∧
        t = (s.setInputs s.inputs.tail).windowWrite off w)

/-! ### The end of a run -/

/-- R291: where a run may end, the window as `MemRead` returns it, with EK, DK and KEY, is the block's whole state: two such
states with one observation are the same, but for the model's own inputs and record of reads. -/
def Obligations.ObservationIsTheWholeState : Prop :=
  ∀ s t : State, s.bufferOk → t.bufferOk → s.ended = true → t.ended = true →
    s.observation = t.observation → t = { s with inputs := t.inputs, returned := t.returned }
end

