-- ==== Sys2Proof/Laws/Bytes.lean ====
section
/-! SUPPORT. Blocks, words and their bytes: reading back what was built, and extensionality. -/

namespace Sys2Proof.Machine

/-! ### Four parts of one width put together -/

theorem getLsbD_append4 {n : Nat} (a b c d : BitVec n) (i : Nat) :
    (a ++ b ++ c ++ d).getLsbD i =
      if i < n then d.getLsbD i
      else if i - n < n then c.getLsbD (i - n)
      else if i - n - n < n then b.getLsbD (i - n - n)
      else a.getLsbD (i - n - n - n) := by
  simp only [BitVec.getLsbD_append]

theorem wordByte_wordOfBytes (f : Nat → Byte) (k : Nat) (h : k < 4) :
    wordByte (wordOfBytes f) k = f k := by
  refine BitVec.eq_of_getLsbD_eq fun i hi => ?_
  rw [wordByte, BitVec.getLsbD_extractLsb', decide_eq_true hi, Bool.true_and]
  refine (getLsbD_append4 (f 3) (f 2) (f 1) (f 0) (8 * k + i)).trans ?_
  obtain rfl | rfl | rfl | rfl : k = 0 ∨ k = 1 ∨ k = 2 ∨ k = 3 := by omega
  all_goals
    simp (disch := omega) only [if_neg, if_pos]
    congr 1
    omega

theorem blockWord_blockOfWords (f : Nat → Word) (k : Nat) (h : k < 4) :
    blockWord (blockOfWords f) k = f k := by
  refine BitVec.eq_of_getLsbD_eq fun i hi => ?_
  rw [blockWord, BitVec.getLsbD_extractLsb', decide_eq_true hi, Bool.true_and]
  refine (getLsbD_append4 (f 3) (f 2) (f 1) (f 0) (32 * k + i)).trans ?_
  obtain rfl | rfl | rfl | rfl : k = 0 ∨ k = 1 ∨ k = 2 ∨ k = 3 := by omega
  all_goals
    simp (disch := omega) only [if_neg, if_pos]
    congr 1
    omega

/-! ### Extensionality -/

theorem word_ext {v w : Word} (h : ∀ k < 4, wordByte v k = wordByte w k) : v = w := by
  refine BitVec.eq_of_getLsbD_eq fun i hi => ?_
  have hk := congrArg (fun b => b.getLsbD (i % 8)) (h (i / 8) (by omega))
  simpa [wordByte, Nat.mod_lt, Nat.div_add_mod] using hk

theorem block_ext_words {v w : Block} (h : ∀ k < 4, blockWord v k = blockWord w k) : v = w := by
  refine BitVec.eq_of_getLsbD_eq fun i hi => ?_
  have hk := congrArg (fun b => b.getLsbD (i % 32)) (h (i / 32) (by omega))
  simpa [blockWord, Nat.mod_lt, Nat.div_add_mod] using hk

/-- R13: byte `4i + k` of a block is byte `k` of its word `i`. -/
theorem wordByte_blockWord (v : Block) (i k : Nat) (h : k < 4) :
    wordByte (blockWord v i) k = blockByte v (4 * i + k) := by
  refine BitVec.eq_of_getLsbD_eq fun b hb => ?_
  have : 8 * k + b < 32 := by omega
  simp only [wordByte, blockWord, blockByte, BitVec.getLsbD_extractLsb', hb, this, decide_true,
    Bool.true_and]
  congr 1
  omega

theorem blockByte_blockOfBytes (f : Nat → Byte) (j : Nat) (h : j < 16) :
    blockByte (blockOfBytes f) j = f j := by
  have hj : 4 * (j / 4) + j % 4 = j := Nat.div_add_mod j 4
  have hw := wordByte_blockWord (blockOfBytes f) (j / 4) (j % 4) (by omega)
  rw [hj] at hw
  rw [← hw, blockOfBytes, blockWord_blockOfWords _ _ (by omega),
    wordByte_wordOfBytes _ _ (by omega), hj]

theorem block_ext {v w : Block} (h : ∀ j < 16, blockByte v j = blockByte w j) : v = w :=
  block_ext_words fun i hi => word_ext fun k hk => by
    rw [wordByte_blockWord v i k hk, wordByte_blockWord w i k hk, h _ (by omega)]

@[simp] theorem blockOfBytes_blockByte (v : Block) : blockOfBytes (blockByte v) = v :=
  block_ext fun j hj => blockByte_blockOfBytes _ j hj

@[simp] theorem blockOfWords_blockWord (v : Block) : blockOfWords (blockWord v) = v :=
  block_ext_words fun k hk => blockWord_blockOfWords _ k hk

@[simp] theorem wordOfBytes_wordByte (w : Word) : wordOfBytes (wordByte w) = w :=
  word_ext fun k hk => wordByte_wordOfBytes _ k hk

/-! ### Building from equal parts -/

theorem wordOfBytes_congr {f g : Nat → Byte} (h : ∀ k < 4, f k = g k) :
    wordOfBytes f = wordOfBytes g :=
  word_ext fun k hk => by rw [wordByte_wordOfBytes f k hk, wordByte_wordOfBytes g k hk, h k hk]

theorem blockOfWords_congr {f g : Nat → Word} (h : ∀ k < 4, f k = g k) :
    blockOfWords f = blockOfWords g :=
  block_ext_words fun k hk => by
    rw [blockWord_blockOfWords f k hk, blockWord_blockOfWords g k hk, h k hk]

theorem blockOfBytes_congr {f g : Nat → Byte} (h : ∀ j < 16, f j = g j) :
    blockOfBytes f = blockOfBytes g :=
  block_ext fun j hj => by rw [blockByte_blockOfBytes f j hj, blockByte_blockOfBytes g j hj, h j hj]

/-! ### Exclusive-or, part by part -/

@[simp] theorem blockByte_xor (v w : Block) (j : Nat) :
    blockByte (v ^^^ w) j = blockByte v j ^^^ blockByte w j := BitVec.extractLsb'_xor

@[simp] theorem blockWord_xor (v w : Block) (i : Nat) :
    blockWord (v ^^^ w) i = blockWord v i ^^^ blockWord w i := BitVec.extractLsb'_xor

@[simp] theorem wordByte_xor (v w : Word) (k : Nat) :
    wordByte (v ^^^ w) k = wordByte v k ^^^ wordByte w k := BitVec.extractLsb'_xor

/-! ### A word of a block replaced -/

theorem blockWord_setBlockWord (v : Block) (k : Nat) (w : Word) (i : Nat) (h : i < 4) :
    blockWord (setBlockWord v k w) i = if i = k then w else blockWord v i :=
  blockWord_blockOfWords _ i h

end Sys2Proof.Machine
end

