-- ==== Sys2Proof/Laws/Cipher.lean ====
section
/-! SUPPORT. The cipher functions byte by byte and column by column, and the words of the key schedule. -/

namespace Sys2Proof.Machine

theorem blockByte_subBytes (s : Block) (j : Nat) (h : j < 16) :
    blockByte (subBytes s) j = sbox (blockByte s j) := blockByte_blockOfBytes _ j h

theorem blockByte_invSubBytes (s : Block) (j : Nat) (h : j < 16) :
    blockByte (invSubBytes s) j = invSbox (blockByte s j) := blockByte_blockOfBytes _ j h

theorem blockByte_shiftRows (s : Block) (j : Nat) (h : j < 16) :
    blockByte (shiftRows s) j = blockByte s (j % 4 + 4 * ((j / 4 + j % 4) % 4)) :=
  blockByte_blockOfBytes _ j h

theorem blockByte_invShiftRows (s : Block) (j : Nat) (h : j < 16) :
    blockByte (invShiftRows s) j = blockByte s (j % 4 + 4 * ((j / 4 + 4 - j % 4) % 4)) :=
  blockByte_blockOfBytes _ j h

theorem blockWord_mixColumns (s : Block) (c : Nat) (h : c < 4) :
    blockWord (mixColumns s) c = mixColumn (blockWord s c) := blockWord_blockOfWords _ c h

theorem blockWord_invMixColumns (s : Block) (c : Nat) (h : c < 4) :
    blockWord (invMixColumns s) c = invMixColumn (blockWord s c) := blockWord_blockOfWords _ c h

theorem wordByte_mixColumn (w : Word) :
    wordByte (mixColumn w) 0 =
        gfMul 0x02 (wordByte w 0) ^^^ gfMul 0x03 (wordByte w 1) ^^^ wordByte w 2 ^^^ wordByte w 3 ∧
      wordByte (mixColumn w) 1 =
        wordByte w 0 ^^^ gfMul 0x02 (wordByte w 1) ^^^ gfMul 0x03 (wordByte w 2) ^^^ wordByte w 3 ∧
      wordByte (mixColumn w) 2 =
        wordByte w 0 ^^^ wordByte w 1 ^^^ gfMul 0x02 (wordByte w 2) ^^^ gfMul 0x03 (wordByte w 3) ∧
      wordByte (mixColumn w) 3 =
        gfMul 0x03 (wordByte w 0) ^^^ wordByte w 1 ^^^ wordByte w 2 ^^^ gfMul 0x02 (wordByte w 3) := by
  unfold mixColumn
  refine ⟨?_, ?_, ?_, ?_⟩ <;> (rw [wordByte_wordOfBytes _ _ (by decide)]; rfl)

theorem wordByte_invMixColumn (w : Word) :
    wordByte (invMixColumn w) 0 =
        gfMul 0x0E (wordByte w 0) ^^^ gfMul 0x0B (wordByte w 1) ^^^ gfMul 0x0D (wordByte w 2) ^^^
          gfMul 0x09 (wordByte w 3) ∧
      wordByte (invMixColumn w) 1 =
        gfMul 0x09 (wordByte w 0) ^^^ gfMul 0x0E (wordByte w 1) ^^^ gfMul 0x0B (wordByte w 2) ^^^
          gfMul 0x0D (wordByte w 3) ∧
      wordByte (invMixColumn w) 2 =
        gfMul 0x0D (wordByte w 0) ^^^ gfMul 0x09 (wordByte w 1) ^^^ gfMul 0x0E (wordByte w 2) ^^^
          gfMul 0x0B (wordByte w 3) ∧
      wordByte (invMixColumn w) 3 =
        gfMul 0x0B (wordByte w 0) ^^^ gfMul 0x0D (wordByte w 1) ^^^ gfMul 0x09 (wordByte w 2) ^^^
          gfMul 0x0E (wordByte w 3) := by
  unfold invMixColumn
  refine ⟨?_, ?_, ?_, ?_⟩ <;> (rw [wordByte_wordOfBytes _ _ (by decide)]; rfl)

theorem wordByte_subWord (w : Word) (k : Nat) (h : k < 4) :
    wordByte (subWord w) k = sbox (wordByte w k) := wordByte_wordOfBytes _ k h

theorem wordByte_rotWord (w : Word) (k : Nat) (h : k < 4) :
    wordByte (rotWord w) k = wordByte w ((k + 1) % 4) := wordByte_wordOfBytes _ k h

theorem wordByte_rconWord (b : Byte) (k : Nat) (h : k < 4) :
    wordByte (rconWord b) k = if k = 0 then b else 0x00 := wordByte_wordOfBytes _ k h

/-! ### The key schedule -/

@[simp] theorem length_scheduleWords (key : Nat → Byte) (nk n : Nat) :
    (scheduleWords key nk n).length = n := by
  induction n with
  | zero => rfl
  | succ n ih => simp [scheduleWords, ih]

/-- A word of the schedule does not depend on how many words follow it. -/
theorem getD_scheduleWords_succ (key : Nat → Byte) (nk : Nat) {i n : Nat} (h : i < n) :
    (scheduleWords key nk (n + 1)).getD i 0 = (scheduleWords key nk n).getD i 0 := by
  simp [scheduleWords, List.getD_eq_getElem?_getD, List.getElem?_append, h]

theorem getD_scheduleWords_of_le (key : Nat → Byte) (nk : Nat) {i n m : Nat} (h : i < n)
    (hm : n ≤ m) :
    (scheduleWords key nk m).getD i 0 = (scheduleWords key nk n).getD i 0 := by
  induction m, hm using Nat.le_induction with
  | base => rfl
  | succ m hm ih => rw [getD_scheduleWords_succ key nk (by omega), ih]

/-- R134: word `i` of the schedule is what the loop makes of the words before it. -/
theorem getD_scheduleWords (key : Nat → Byte) (nk : Nat) {i n : Nat} (h : i < n) :
    (scheduleWords key nk n).getD i 0 = nextScheduleWord key nk i (scheduleWords key nk i) := by
  rw [getD_scheduleWords_of_le key nk (Nat.lt_succ_self i) h]
  simp [scheduleWords, List.getD_eq_getElem?_getD]

theorem blockWord_keyExpansion (key : Nat → Byte) (nk r i : Nat) (h : i < 4) :
    blockWord (keyExpansion key nk r) i = (scheduleWords key nk (4 * (nk + 7))).getD (4 * r + i) 0 :=
  blockWord_blockOfWords _ i h

end Sys2Proof.Machine
end

