-- ==== Sys2Proof/Laws/Memory.lean ====
section
/-! SUPPORT. The packet buffer: what each operation stores and leaves, and that each keeps the canonical form. -/

namespace Sys2Proof.Machine

/-! ### One byte -/

theorem wf_cons {p : Host.Cell} {m : Memory} :
    Memory.wf (p :: m) ↔ (∀ q ∈ m, p.1 < q.1) ∧ p.2 ≠ unlistedByte ∧ Memory.wf m := by
  simp only [Memory.wf, List.pairwise_cons, List.mem_cons, forall_eq_or_imp]
  tauto

theorem wf_nil : Memory.wf [] := by simp [Memory.wf]

theorem read_of_lt {m : Memory} {a : Nat} (h : ∀ q ∈ m, a < q.1) : m.read a = unlistedByte := by
  induction m with
  | nil => rfl
  | cons p m ih =>
    have hp : a < p.1 := h p (List.mem_cons_self ..)
    have hne : p.1 ≠ a := by omega
    simp only [Memory.read, if_neg hne]
    exact ih fun q hq => h q (List.mem_cons_of_mem _ hq)

/-- A stored byte changes no other offset. -/
theorem read_write_other (m : Memory) {a c : Nat} (b : Byte) (h : c ≠ a) :
    (m.write a b).read c = m.read c := by
  induction m with
  | nil =>
    by_cases hb : b = unlistedByte
    · simp [Memory.write, hb]
    · simp [Memory.write, hb, Memory.read, Ne.symm h]
  | cons p m ih =>
    obtain ⟨x, e⟩ := p
    simp only [Memory.write]
    split
    · split
      · rfl
      · simp [Memory.read, Ne.symm h]
    · split
      · next hx =>
        subst hx
        split <;> simp [Memory.read, Ne.symm h]
      · simp [Memory.read, ih]

/-- A stored byte reads back. -/
theorem read_write_same {m : Memory} (hm : m.wf) (a : Nat) (b : Byte) : (m.write a b).read a = b := by
  induction m with
  | nil =>
    by_cases hb : b = unlistedByte
    · simp [Memory.write, hb, Memory.read]
    · simp [Memory.write, hb, Memory.read]
  | cons p m ih =>
    obtain ⟨x, e⟩ := p
    obtain ⟨hlt, -, hw⟩ := wf_cons.mp hm
    simp only [Memory.write]
    split
    · next hax =>
      split
      · next hb =>
        rw [hb]
        refine read_of_lt fun q hq => ?_
        rcases List.mem_cons.mp hq with rfl | hq
        · exact hax
        · exact lt_trans hax (hlt q hq)
      · simp [Memory.read]
    · split
      · next hax =>
        split
        · next hb =>
          rw [hb]
          refine read_of_lt fun q hq => ?_
          have := hlt q hq
          simp only at this
          omega
        · simp [Memory.read]
      · next hax =>
        simp only [Memory.read, if_neg (Ne.symm hax)]
        exact ih hw

/-- What a store lists: what was listed before, or the byte stored. -/
theorem mem_write {m : Memory} {a : Nat} {b : Byte} {p : Host.Cell} (h : p ∈ m.write a b) :
    p ∈ m ∨ p = (a, b) := by
  induction m with
  | nil =>
    by_cases hb : b = unlistedByte
    · simp [Memory.write, hb] at h
    · simp [Memory.write, hb] at h
      exact .inr h
  | cons q m ih =>
    obtain ⟨x, e⟩ := q
    simp only [Memory.write] at h
    split at h
    · split at h
      · exact .inl h
      · rcases List.mem_cons.mp h with h | h
        · exact .inr h
        · exact .inl h
    · split at h
      · split at h
        · exact .inl (List.mem_cons_of_mem _ h)
        · rcases List.mem_cons.mp h with h | h
          · exact .inr h
          · exact .inl (List.mem_cons_of_mem _ h)
      · rcases List.mem_cons.mp h with h | h
        · exact .inl (h ▸ List.mem_cons_self ..)
        · exact (ih h).imp_left (List.mem_cons_of_mem _)

theorem wf_write {m : Memory} (hm : m.wf) (a : Nat) (b : Byte) : (m.write a b).wf := by
  induction m with
  | nil =>
    by_cases hb : b = unlistedByte
    · simp [Memory.write, hb, Memory.wf]
    · simp [Memory.write, hb, Memory.wf]
  | cons p m ih =>
    obtain ⟨x, e⟩ := p
    obtain ⟨hlt, he, hw⟩ := wf_cons.mp hm
    simp only [Memory.write]
    split
    · next hax =>
      split
      · exact hm
      · next hb =>
        refine wf_cons.mpr ⟨fun q hq => ?_, hb, hm⟩
        rcases List.mem_cons.mp hq with rfl | hq
        · exact hax
        · exact lt_trans hax (hlt q hq)
    · split
      · next hax =>
        split
        · exact hw
        · next hb =>
          refine wf_cons.mpr ⟨fun q hq => ?_, hb, hw⟩
          have := hlt q hq
          simp only at this
          simpa [hax] using this
      · next h1 h2 =>
        refine wf_cons.mpr ⟨fun q hq => ?_, he, ih hw⟩
        rcases mem_write hq with hq | rfl
        · exact hlt q hq
        · simp only
          omega

theorem read_write {m : Memory} (hm : m.wf) (a : Nat) (b : Byte) (c : Nat) :
    (m.write a b).read c = if c = a then b else m.read c := by
  split
  · next h => rw [h, read_write_same hm]
  · next h => exact read_write_other m b h

/-! ### One form for given bytes -/

/-- The first listed offset of a buffer does not read as an unlisted one. -/
theorem read_head_ne {p : Host.Cell} {m : Memory} (h : Memory.wf (p :: m)) :
    Memory.read (p :: m) p.1 ≠ unlistedByte := by
  simpa [Memory.read] using (wf_cons.mp h).2.1

/-- Below its first listed offset a buffer reads as unlisted. -/
theorem read_below_head {p : Host.Cell} {m : Memory} (h : Memory.wf (p :: m)) {a : Nat}
    (ha : a < p.1) : Memory.read (p :: m) a = unlistedByte :=
  read_of_lt fun q hq =>
    (List.mem_cons.mp hq).elim (fun he => he ▸ ha) fun hq => lt_trans ha ((wf_cons.mp h).1 q hq)

/-- Log entry 4: two buffers in canonical form with equal bytes everywhere are the same data. -/
theorem memory_ext {m n : Memory} (hm : m.wf) (hn : n.wf) (h : ∀ a, m.read a = n.read a) : m = n := by
  induction m generalizing n with
  | nil =>
    cases n with
    | nil => rfl
    | cons q n => exact absurd (h q.1).symm (read_head_ne hn)
  | cons p m ih =>
    cases n with
    | nil => exact absurd (h p.1) (read_head_ne hm)
    | cons q n =>
      obtain ⟨x, c⟩ := p
      obtain ⟨y, d⟩ := q
      obtain rfl : x = y := by
        rcases lt_trichotomy x y with hl | he | hl
        · exact absurd ((h x).trans (read_below_head hn hl)) (read_head_ne hm)
        · exact he
        · exact absurd ((h y).symm.trans (read_below_head hm hl)) (read_head_ne hn)
      obtain rfl : c = d := by simpa [Memory.read] using h x
      obtain ⟨hlm, -, hwm⟩ := wf_cons.mp hm
      obtain ⟨hln, -, hwn⟩ := wf_cons.mp hn
      rw [ih hwm hwn fun a => ?_]
      by_cases ha : x = a
      · subst ha
        rw [read_of_lt hlm, read_of_lt hln]
      · simpa [Memory.read, ha] using h a

/-! ### Bytes and blocks of the packet -/

/-- The buffer lists nothing outside PKT's offsets. -/
abbrev Memory.inPacket (m : Memory) : Prop :=
  ∀ p ∈ m, Config.pktOffset ≤ p.1 ∧ p.1 < Config.pktOffset + Config.pktLen

theorem pktByte_setPktByte {m : Memory} (hm : m.wf) (i : Nat) (b : Byte) (j : Nat) :
    (m.setPktByte i b).pktByte j = if j = i then b else m.pktByte j := by
  rw [Memory.pktByte, Memory.setPktByte, read_write hm]
  simp [Memory.pktByte]

theorem wf_setPktByte {m : Memory} (hm : m.wf) (i : Nat) (b : Byte) : (m.setPktByte i b).wf :=
  wf_write hm _ _

theorem inPacket_setPktByte {m : Memory} (hm : m.inPacket) {i : Nat} (hi : i < Config.pktLen)
    (b : Byte) : (m.setPktByte i b).inPacket := by
  intro p hp
  rcases mem_write hp with hp | rfl
  · exact hm p hp
  · simp only
    omega

theorem wf_setPktBytes {m : Memory} (hm : m.wf) (o : Nat) (f : Nat → Byte) (n : Nat) :
    (m.setPktBytes o f n).wf := by
  induction n with
  | zero => exact hm
  | succ n ih => exact wf_setPktByte ih _ _

theorem inPacket_setPktBytes {m : Memory} (hm : m.inPacket) {o n : Nat}
    (h : o + n ≤ Config.pktLen) (f : Nat → Byte) : (m.setPktBytes o f n).inPacket := by
  induction n with
  | zero => exact hm
  | succ n ih => exact inPacket_setPktByte (ih (by omega)) (by omega) _

theorem pktByte_setPktBytes {m : Memory} (hm : m.wf) (o : Nat) (f : Nat → Byte) (n j : Nat) :
    (m.setPktBytes o f n).pktByte j = if o ≤ j ∧ j < o + n then f (j - o) else m.pktByte j := by
  induction n with
  | zero => rw [if_neg (by omega)]; rfl
  | succ n ih =>
    rw [Memory.setPktBytes, pktByte_setPktByte (wf_setPktBytes hm o f n), ih]
    by_cases h : j = o + n
    · rw [if_pos h, if_pos (by omega), h, Nat.add_sub_cancel_left]
    · rw [if_neg h]
      by_cases h' : o ≤ j ∧ j < o + n
      · rw [if_pos h', if_pos (by omega)]
      · rw [if_neg h', if_neg (by omega)]

/-- A store of bytes changes no offset outside them, whatever the form of the buffer. -/
theorem read_setPktBytes_other (m : Memory) (o : Nat) (f : Nat → Byte) (n : Nat) {a : Nat}
    (h : ¬(Config.pktOffset + o ≤ a ∧ a < Config.pktOffset + o + n)) :
    (m.setPktBytes o f n).read a = m.read a := by
  induction n with
  | zero => rfl
  | succ n ih =>
    rw [Memory.setPktBytes, Memory.setPktByte, read_write_other _ _ (by omega), ih (by omega)]

/-- Every byte of the buffer after a store of bytes, by window offset. -/
theorem read_setPktBytes {m : Memory} (hm : m.wf) (o : Nat) (f : Nat → Byte) (n a : Nat) :
    (m.setPktBytes o f n).read a =
      if Config.pktOffset + o ≤ a ∧ a < Config.pktOffset + o + n then
        f (a - (Config.pktOffset + o))
      else m.read a := by
  split_ifs with h
  · obtain ⟨j, rfl⟩ := Nat.exists_eq_add_of_le h.1
    have hj := pktByte_setPktBytes hm o f n (o + j)
    rw [if_pos (by omega), Memory.pktByte, ← Nat.add_assoc] at hj
    rw [hj]
    congr 1
    omega
  · exact read_setPktBytes_other m o f n h

theorem pktByte_setPktBlock {m : Memory} (hm : m.wf) (o : Nat) (b : Block) (j : Nat) :
    (m.setPktBlock o b).pktByte j =
      if o ≤ j ∧ j < o + 16 then blockByte b (j - o) else m.pktByte j :=
  pktByte_setPktBytes hm o (blockByte b) 16 j

theorem blockByte_pktBlock (m : Memory) (o j : Nat) (h : j < 16) :
    blockByte (m.pktBlock o) j = m.pktByte (o + j) := blockByte_blockOfBytes _ j h

/-! ### The payload -/

theorem wf_mapPayload {m : Memory} (hm : m.wf) (f : Block → Block) (poff n : Nat) :
    (mapPayload f m poff n).wf := by
  induction n with
  | zero => exact hm
  | succ n ih => exact wf_setPktBytes ih _ _ _

theorem inPacket_mapPayload {m : Memory} (hm : m.inPacket) (f : Block → Block) {poff n : Nat}
    (h : poff + 16 * n ≤ Config.pktLen) : (mapPayload f m poff n).inPacket := by
  induction n with
  | zero => exact hm
  | succ n ih =>
    have h16 : Config.blockBytes = 16 := rfl
    exact inPacket_setPktBytes (ih (by omega)) (by omega) _

/-- What step 4 and 5 of PKTDEC leave at each byte: block `k` of the payload is `f` of the block that stood there, and
every other byte is as it was. -/
theorem pktByte_mapPayload {m : Memory} (hm : m.wf) (f : Block → Block) (poff n j : Nat) :
    (mapPayload f m poff n).pktByte j =
      if poff ≤ j ∧ j < poff + 16 * n then
        blockByte (f (m.pktBlock (poff + 16 * ((j - poff) / 16)))) ((j - poff) % 16)
      else m.pktByte j := by
  induction n generalizing j with
  | zero => rw [if_neg (by omega)]; rfl
  | succ n ih =>
    have hblock : (mapPayload f m poff n).pktBlock (poff + 16 * n) = m.pktBlock (poff + 16 * n) :=
      blockOfBytes_congr fun i hi => by rw [ih, if_neg (by omega)]
    simp only [mapPayload, Config.blockBytes]
    rw [pktByte_setPktBlock (wf_mapPayload hm f poff n), hblock]
    by_cases h : poff + 16 * n ≤ j ∧ j < poff + 16 * n + 16
    · rw [if_pos h, if_pos (by omega)]
      have h1 : (j - poff) / 16 = n := by omega
      have h2 : (j - poff) % 16 = j - (poff + 16 * n) := by omega
      rw [h1, h2]
    · rw [if_neg h, ih]
      by_cases h' : poff ≤ j ∧ j < poff + 16 * n
      · rw [if_pos h', if_pos (by omega)]
      · rw [if_neg h', if_neg (by omega)]

theorem inPacket_clearScrambling {m : Memory} (hm : m.inPacket) : (clearScrambling m).inPacket :=
  inPacket_setPktByte hm (by decide) _

theorem wf_clearScrambling {m : Memory} (hm : m.wf) : (clearScrambling m).wf := wf_setPktByte hm _ _

theorem pktByte_clearScrambling {m : Memory} (hm : m.wf) (j : Nat) :
    (clearScrambling m).pktByte j = if j = 3 then m.pktByte 3 &&& 0x3F#8 else m.pktByte j :=
  pktByte_setPktByte hm 3 _ j

end Sys2Proof.Machine
end

