-- ==== Sys2Proof/Laws/State.lean ====
section
/-! SUPPORT. One lemma per field per update of the state, and per accessor per update that does not touch it, all true by
rfl: no later proof unfolds a record update. -/

namespace Sys2Proof.Machine

variable (s : State)

/-! ### `State.writeV` -/

@[simp] theorem State.writeV_hwpath (i : VReg) (b : Block) : (s.writeV i b).hwpath = s.hwpath := rfl
@[simp] theorem State.writeV_inflight (i : VReg) (b : Block) : (s.writeV i b).inflight = s.inflight := rfl
@[simp] theorem State.writeV_schedValid (i : VReg) (b : Block) : (s.writeV i b).schedValid = s.schedValid := rfl
@[simp] theorem State.writeV_err (i : VReg) (b : Block) : (s.writeV i b).err = s.err := rfl
@[simp] theorem State.writeV_nr (i : VReg) (b : Block) : (s.writeV i b).nr = s.nr := rfl
@[simp] theorem State.writeV_klen (i : VReg) (b : Block) : (s.writeV i b).klen = s.klen := rfl
@[simp] theorem State.writeV_result (i : VReg) (b : Block) : (s.writeV i b).result = s.result := rfl
@[simp] theorem State.writeV_key (i : VReg) (b : Block) : (s.writeV i b).key = s.key := rfl
@[simp] theorem State.writeV_ek (i : VReg) (b : Block) : (s.writeV i b).ek = s.ek := rfl
@[simp] theorem State.writeV_dk (i : VReg) (b : Block) : (s.writeV i b).dk = s.dk := rfl
@[simp] theorem State.writeV_v (i : VReg) (b : Block) : (s.writeV i b).v = s.v.set i.val b := rfl
@[simp] theorem State.writeV_mem (i : VReg) (b : Block) : (s.writeV i b).mem = s.mem := rfl
@[simp] theorem State.writeV_inputs (i : VReg) (b : Block) : (s.writeV i b).inputs = s.inputs := rfl
@[simp] theorem State.writeV_returned (i : VReg) (b : Block) : (s.writeV i b).returned = s.returned := rfl
@[simp] theorem State.writeV_keyByte (i : VReg) (b : Block) (j : Nat) : (s.writeV i b).keyByte j = s.keyByte j := rfl
@[simp] theorem State.writeV_ekAt (i : VReg) (b : Block) (r : Nat) : (s.writeV i b).ekAt r = s.ekAt r := rfl
@[simp] theorem State.writeV_dkAt (i : VReg) (b : Block) (r : Nat) : (s.writeV i b).dkAt r = s.dkAt r := rfl
@[simp] theorem State.writeV_busy (i : VReg) (b : Block) : (s.writeV i b).busy = s.busy := rfl
@[simp] theorem State.writeV_encryptBlock (i : VReg) (b : Block) (p : Block) : (s.writeV i b).encryptBlock p = s.encryptBlock p := rfl
@[simp] theorem State.writeV_decryptBlock (i : VReg) (b : Block) (p : Block) : (s.writeV i b).decryptBlock p = s.decryptBlock p := rfl

/-! ### `State.setMem` -/

@[simp] theorem State.setMem_hwpath (m : Memory) : (s.setMem m).hwpath = s.hwpath := rfl
@[simp] theorem State.setMem_inflight (m : Memory) : (s.setMem m).inflight = s.inflight := rfl
@[simp] theorem State.setMem_schedValid (m : Memory) : (s.setMem m).schedValid = s.schedValid := rfl
@[simp] theorem State.setMem_err (m : Memory) : (s.setMem m).err = s.err := rfl
@[simp] theorem State.setMem_nr (m : Memory) : (s.setMem m).nr = s.nr := rfl
@[simp] theorem State.setMem_klen (m : Memory) : (s.setMem m).klen = s.klen := rfl
@[simp] theorem State.setMem_result (m : Memory) : (s.setMem m).result = s.result := rfl
@[simp] theorem State.setMem_key (m : Memory) : (s.setMem m).key = s.key := rfl
@[simp] theorem State.setMem_ek (m : Memory) : (s.setMem m).ek = s.ek := rfl
@[simp] theorem State.setMem_dk (m : Memory) : (s.setMem m).dk = s.dk := rfl
@[simp] theorem State.setMem_v (m : Memory) : (s.setMem m).v = s.v := rfl
@[simp] theorem State.setMem_mem (m : Memory) : (s.setMem m).mem = m := rfl
@[simp] theorem State.setMem_inputs (m : Memory) : (s.setMem m).inputs = s.inputs := rfl
@[simp] theorem State.setMem_returned (m : Memory) : (s.setMem m).returned = s.returned := rfl
@[simp] theorem State.setMem_readV (m : Memory) (j : VReg) : (s.setMem m).readV j = s.readV j := rfl
@[simp] theorem State.setMem_keyByte (m : Memory) (j : Nat) : (s.setMem m).keyByte j = s.keyByte j := rfl
@[simp] theorem State.setMem_ekAt (m : Memory) (r : Nat) : (s.setMem m).ekAt r = s.ekAt r := rfl
@[simp] theorem State.setMem_dkAt (m : Memory) (r : Nat) : (s.setMem m).dkAt r = s.dkAt r := rfl
@[simp] theorem State.setMem_busy (m : Memory) : (s.setMem m).busy = s.busy := rfl
@[simp] theorem State.setMem_encryptBlock (m : Memory) (p : Block) : (s.setMem m).encryptBlock p = s.encryptBlock p := rfl
@[simp] theorem State.setMem_decryptBlock (m : Memory) (p : Block) : (s.setMem m).decryptBlock p = s.decryptBlock p := rfl

/-! ### `State.setResult` -/

@[simp] theorem State.setResult_hwpath (r : Word) : (s.setResult r).hwpath = s.hwpath := rfl
@[simp] theorem State.setResult_inflight (r : Word) : (s.setResult r).inflight = s.inflight := rfl
@[simp] theorem State.setResult_schedValid (r : Word) : (s.setResult r).schedValid = s.schedValid := rfl
@[simp] theorem State.setResult_err (r : Word) : (s.setResult r).err = s.err := rfl
@[simp] theorem State.setResult_nr (r : Word) : (s.setResult r).nr = s.nr := rfl
@[simp] theorem State.setResult_klen (r : Word) : (s.setResult r).klen = s.klen := rfl
@[simp] theorem State.setResult_result (r : Word) : (s.setResult r).result = r := rfl
@[simp] theorem State.setResult_key (r : Word) : (s.setResult r).key = s.key := rfl
@[simp] theorem State.setResult_ek (r : Word) : (s.setResult r).ek = s.ek := rfl
@[simp] theorem State.setResult_dk (r : Word) : (s.setResult r).dk = s.dk := rfl
@[simp] theorem State.setResult_v (r : Word) : (s.setResult r).v = s.v := rfl
@[simp] theorem State.setResult_mem (r : Word) : (s.setResult r).mem = s.mem := rfl
@[simp] theorem State.setResult_inputs (r : Word) : (s.setResult r).inputs = s.inputs := rfl
@[simp] theorem State.setResult_returned (r : Word) : (s.setResult r).returned = s.returned := rfl
@[simp] theorem State.setResult_readV (r : Word) (j : VReg) : (s.setResult r).readV j = s.readV j := rfl
@[simp] theorem State.setResult_keyByte (r : Word) (j : Nat) : (s.setResult r).keyByte j = s.keyByte j := rfl
@[simp] theorem State.setResult_ekAt (r : Word) (n : Nat) : (s.setResult r).ekAt n = s.ekAt n := rfl
@[simp] theorem State.setResult_dkAt (r : Word) (n : Nat) : (s.setResult r).dkAt n = s.dkAt n := rfl
@[simp] theorem State.setResult_busy (r : Word) : (s.setResult r).busy = s.busy := rfl
@[simp] theorem State.setResult_encryptBlock (r : Word) (p : Block) : (s.setResult r).encryptBlock p = s.encryptBlock p := rfl
@[simp] theorem State.setResult_decryptBlock (r : Word) (p : Block) : (s.setResult r).decryptBlock p = s.decryptBlock p := rfl

/-! ### `State.setKeyWord` -/

@[simp] theorem State.setKeyWord_hwpath (k : Nat) (w : Word) : (s.setKeyWord k w).hwpath = s.hwpath := rfl
@[simp] theorem State.setKeyWord_inflight (k : Nat) (w : Word) : (s.setKeyWord k w).inflight = s.inflight := rfl
@[simp] theorem State.setKeyWord_schedValid (k : Nat) (w : Word) : (s.setKeyWord k w).schedValid = s.schedValid := rfl
@[simp] theorem State.setKeyWord_err (k : Nat) (w : Word) : (s.setKeyWord k w).err = s.err := rfl
@[simp] theorem State.setKeyWord_nr (k : Nat) (w : Word) : (s.setKeyWord k w).nr = s.nr := rfl
@[simp] theorem State.setKeyWord_klen (k : Nat) (w : Word) : (s.setKeyWord k w).klen = s.klen := rfl
@[simp] theorem State.setKeyWord_result (k : Nat) (w : Word) : (s.setKeyWord k w).result = s.result := rfl
@[simp] theorem State.setKeyWord_key (k : Nat) (w : Word) : (s.setKeyWord k w).key = 
    (((s.key.setIfInBounds (4 * k) (wordByte w 0)).setIfInBounds (4 * k + 1) (wordByte w 1)
      ).setIfInBounds (4 * k + 2) (wordByte w 2)).setIfInBounds (4 * k + 3) (wordByte w 3) := rfl
@[simp] theorem State.setKeyWord_ek (k : Nat) (w : Word) : (s.setKeyWord k w).ek = s.ek := rfl
@[simp] theorem State.setKeyWord_dk (k : Nat) (w : Word) : (s.setKeyWord k w).dk = s.dk := rfl
@[simp] theorem State.setKeyWord_v (k : Nat) (w : Word) : (s.setKeyWord k w).v = s.v := rfl
@[simp] theorem State.setKeyWord_mem (k : Nat) (w : Word) : (s.setKeyWord k w).mem = s.mem := rfl
@[simp] theorem State.setKeyWord_inputs (k : Nat) (w : Word) : (s.setKeyWord k w).inputs = s.inputs := rfl
@[simp] theorem State.setKeyWord_returned (k : Nat) (w : Word) : (s.setKeyWord k w).returned = s.returned := rfl
@[simp] theorem State.setKeyWord_readV (k : Nat) (w : Word) (j : VReg) : (s.setKeyWord k w).readV j = s.readV j := rfl
@[simp] theorem State.setKeyWord_ekAt (k : Nat) (w : Word) (r : Nat) : (s.setKeyWord k w).ekAt r = s.ekAt r := rfl
@[simp] theorem State.setKeyWord_dkAt (k : Nat) (w : Word) (r : Nat) : (s.setKeyWord k w).dkAt r = s.dkAt r := rfl
@[simp] theorem State.setKeyWord_busy (k : Nat) (w : Word) : (s.setKeyWord k w).busy = s.busy := rfl
@[simp] theorem State.setKeyWord_encryptBlock (k : Nat) (w : Word) (p : Block) : (s.setKeyWord k w).encryptBlock p = s.encryptBlock p := rfl
@[simp] theorem State.setKeyWord_decryptBlock (k : Nat) (w : Word) (p : Block) : (s.setKeyWord k w).decryptBlock p = s.decryptBlock p := rfl

/-! ### `State.installContext` -/

@[simp] theorem State.installContext_hwpath (nr klen : Byte) (ek dk : Vector Block 15) : (s.installContext nr klen ek dk).hwpath = s.hwpath := rfl
@[simp] theorem State.installContext_inflight (nr klen : Byte) (ek dk : Vector Block 15) : (s.installContext nr klen ek dk).inflight = s.inflight := rfl
@[simp] theorem State.installContext_schedValid (nr klen : Byte) (ek dk : Vector Block 15) : (s.installContext nr klen ek dk).schedValid = true := rfl
@[simp] theorem State.installContext_err (nr klen : Byte) (ek dk : Vector Block 15) : (s.installContext nr klen ek dk).err = s.err := rfl
@[simp] theorem State.installContext_nr (nr klen : Byte) (ek dk : Vector Block 15) : (s.installContext nr klen ek dk).nr = nr := rfl
@[simp] theorem State.installContext_klen (nr klen : Byte) (ek dk : Vector Block 15) : (s.installContext nr klen ek dk).klen = klen := rfl
@[simp] theorem State.installContext_result (nr klen : Byte) (ek dk : Vector Block 15) : (s.installContext nr klen ek dk).result = s.result := rfl
@[simp] theorem State.installContext_key (nr klen : Byte) (ek dk : Vector Block 15) : (s.installContext nr klen ek dk).key = s.key := rfl
@[simp] theorem State.installContext_ek (nr klen : Byte) (ek dk : Vector Block 15) : (s.installContext nr klen ek dk).ek = ek := rfl
@[simp] theorem State.installContext_dk (nr klen : Byte) (ek dk : Vector Block 15) : (s.installContext nr klen ek dk).dk = dk := rfl
@[simp] theorem State.installContext_v (nr klen : Byte) (ek dk : Vector Block 15) : (s.installContext nr klen ek dk).v = s.v := rfl
@[simp] theorem State.installContext_mem (nr klen : Byte) (ek dk : Vector Block 15) : (s.installContext nr klen ek dk).mem = s.mem := rfl
@[simp] theorem State.installContext_inputs (nr klen : Byte) (ek dk : Vector Block 15) : (s.installContext nr klen ek dk).inputs = s.inputs := rfl
@[simp] theorem State.installContext_returned (nr klen : Byte) (ek dk : Vector Block 15) : (s.installContext nr klen ek dk).returned = s.returned := rfl
@[simp] theorem State.installContext_readV (nr klen : Byte) (ek dk : Vector Block 15) (j : VReg) : (s.installContext nr klen ek dk).readV j = s.readV j := rfl
@[simp] theorem State.installContext_keyByte (nr klen : Byte) (ek dk : Vector Block 15) (j : Nat) : (s.installContext nr klen ek dk).keyByte j = s.keyByte j := rfl
@[simp] theorem State.installContext_busy (nr klen : Byte) (ek dk : Vector Block 15) : (s.installContext nr klen ek dk).busy = s.busy := rfl

/-! ### `State.eraseKeys` -/

@[simp] theorem State.eraseKeys_hwpath : (s.eraseKeys).hwpath = s.hwpath := rfl
@[simp] theorem State.eraseKeys_inflight : (s.eraseKeys).inflight = s.inflight := rfl
@[simp] theorem State.eraseKeys_schedValid : (s.eraseKeys).schedValid = false := rfl
@[simp] theorem State.eraseKeys_err : (s.eraseKeys).err = s.err := rfl
@[simp] theorem State.eraseKeys_nr : (s.eraseKeys).nr = 0 := rfl
@[simp] theorem State.eraseKeys_klen : (s.eraseKeys).klen = 0 := rfl
@[simp] theorem State.eraseKeys_result : (s.eraseKeys).result = s.result := rfl
@[simp] theorem State.eraseKeys_key : (s.eraseKeys).key = Vector.replicate 32 0 := rfl
@[simp] theorem State.eraseKeys_ek : (s.eraseKeys).ek = Vector.replicate 15 0 := rfl
@[simp] theorem State.eraseKeys_dk : (s.eraseKeys).dk = Vector.replicate 15 0 := rfl
@[simp] theorem State.eraseKeys_v : (s.eraseKeys).v = Vector.replicate 8 0 := rfl
@[simp] theorem State.eraseKeys_mem : (s.eraseKeys).mem = s.mem := rfl
@[simp] theorem State.eraseKeys_inputs : (s.eraseKeys).inputs = s.inputs := rfl
@[simp] theorem State.eraseKeys_returned : (s.eraseKeys).returned = s.returned := rfl
@[simp] theorem State.eraseKeys_busy : (s.eraseKeys).busy = s.busy := rfl

/-! ### `State.raise` -/

@[simp] theorem State.raise_hwpath (e : ErrCode) : (s.raise e).hwpath = s.hwpath := rfl
@[simp] theorem State.raise_inflight (e : ErrCode) : (s.raise e).inflight = s.inflight := rfl
@[simp] theorem State.raise_schedValid (e : ErrCode) : (s.raise e).schedValid = s.schedValid := rfl
@[simp] theorem State.raise_err (e : ErrCode) : (s.raise e).err = e := rfl
@[simp] theorem State.raise_nr (e : ErrCode) : (s.raise e).nr = s.nr := rfl
@[simp] theorem State.raise_klen (e : ErrCode) : (s.raise e).klen = s.klen := rfl
@[simp] theorem State.raise_result (e : ErrCode) : (s.raise e).result = s.result := rfl
@[simp] theorem State.raise_key (e : ErrCode) : (s.raise e).key = s.key := rfl
@[simp] theorem State.raise_ek (e : ErrCode) : (s.raise e).ek = s.ek := rfl
@[simp] theorem State.raise_dk (e : ErrCode) : (s.raise e).dk = s.dk := rfl
@[simp] theorem State.raise_v (e : ErrCode) : (s.raise e).v = s.v := rfl
@[simp] theorem State.raise_mem (e : ErrCode) : (s.raise e).mem = s.mem := rfl
@[simp] theorem State.raise_inputs (e : ErrCode) : (s.raise e).inputs = s.inputs := rfl
@[simp] theorem State.raise_returned (e : ErrCode) : (s.raise e).returned = s.returned := rfl
@[simp] theorem State.raise_readV (e : ErrCode) (j : VReg) : (s.raise e).readV j = s.readV j := rfl
@[simp] theorem State.raise_keyByte (e : ErrCode) (j : Nat) : (s.raise e).keyByte j = s.keyByte j := rfl
@[simp] theorem State.raise_ekAt (e : ErrCode) (r : Nat) : (s.raise e).ekAt r = s.ekAt r := rfl
@[simp] theorem State.raise_dkAt (e : ErrCode) (r : Nat) : (s.raise e).dkAt r = s.dkAt r := rfl
@[simp] theorem State.raise_busy (e : ErrCode) : (s.raise e).busy = s.busy := rfl
@[simp] theorem State.raise_encryptBlock (e : ErrCode) (p : Block) : (s.raise e).encryptBlock p = s.encryptBlock p := rfl
@[simp] theorem State.raise_decryptBlock (e : ErrCode) (p : Block) : (s.raise e).decryptBlock p = s.decryptBlock p := rfl

/-! ### `State.done` -/

@[simp] theorem State.done_hwpath : (s.done).hwpath = s.hwpath := rfl
@[simp] theorem State.done_inflight : (s.done).inflight = s.inflight := rfl
@[simp] theorem State.done_schedValid : (s.done).schedValid = s.schedValid := rfl
@[simp] theorem State.done_err : (s.done).err = .ok := rfl
@[simp] theorem State.done_nr : (s.done).nr = s.nr := rfl
@[simp] theorem State.done_klen : (s.done).klen = s.klen := rfl
@[simp] theorem State.done_result : (s.done).result = s.result := rfl
@[simp] theorem State.done_key : (s.done).key = s.key := rfl
@[simp] theorem State.done_ek : (s.done).ek = s.ek := rfl
@[simp] theorem State.done_dk : (s.done).dk = s.dk := rfl
@[simp] theorem State.done_v : (s.done).v = s.v := rfl
@[simp] theorem State.done_mem : (s.done).mem = s.mem := rfl
@[simp] theorem State.done_inputs : (s.done).inputs = s.inputs := rfl
@[simp] theorem State.done_returned : (s.done).returned = s.returned := rfl
@[simp] theorem State.done_readV (j : VReg) : (s.done).readV j = s.readV j := rfl
@[simp] theorem State.done_keyByte (j : Nat) : (s.done).keyByte j = s.keyByte j := rfl
@[simp] theorem State.done_ekAt (r : Nat) : (s.done).ekAt r = s.ekAt r := rfl
@[simp] theorem State.done_dkAt (r : Nat) : (s.done).dkAt r = s.dkAt r := rfl
@[simp] theorem State.done_busy : (s.done).busy = s.busy := rfl
@[simp] theorem State.done_encryptBlock (p : Block) : (s.done).encryptBlock p = s.encryptBlock p := rfl
@[simp] theorem State.done_decryptBlock (p : Block) : (s.done).decryptBlock p = s.decryptBlock p := rfl

/-! ### `State.retire` -/

@[simp] theorem State.retire_hwpath : (s.retire).hwpath = s.hwpath := rfl
@[simp] theorem State.retire_inflight : (s.retire).inflight = none := rfl
@[simp] theorem State.retire_schedValid : (s.retire).schedValid = s.schedValid := rfl
@[simp] theorem State.retire_err : (s.retire).err = s.err := rfl
@[simp] theorem State.retire_nr : (s.retire).nr = s.nr := rfl
@[simp] theorem State.retire_klen : (s.retire).klen = s.klen := rfl
@[simp] theorem State.retire_result : (s.retire).result = s.result := rfl
@[simp] theorem State.retire_key : (s.retire).key = s.key := rfl
@[simp] theorem State.retire_ek : (s.retire).ek = s.ek := rfl
@[simp] theorem State.retire_dk : (s.retire).dk = s.dk := rfl
@[simp] theorem State.retire_v : (s.retire).v = s.v := rfl
@[simp] theorem State.retire_mem : (s.retire).mem = s.mem := rfl
@[simp] theorem State.retire_inputs : (s.retire).inputs = s.inputs := rfl
@[simp] theorem State.retire_returned : (s.retire).returned = s.returned := rfl
@[simp] theorem State.retire_readV (j : VReg) : (s.retire).readV j = s.readV j := rfl
@[simp] theorem State.retire_keyByte (j : Nat) : (s.retire).keyByte j = s.keyByte j := rfl
@[simp] theorem State.retire_ekAt (r : Nat) : (s.retire).ekAt r = s.ekAt r := rfl
@[simp] theorem State.retire_dkAt (r : Nat) : (s.retire).dkAt r = s.dkAt r := rfl
@[simp] theorem State.retire_encryptBlock (p : Block) : (s.retire).encryptBlock p = s.encryptBlock p := rfl
@[simp] theorem State.retire_decryptBlock (p : Block) : (s.retire).decryptBlock p = s.decryptBlock p := rfl

/-! ### `State.issue` -/

@[simp] theorem State.issue_hwpath (w : Word) : (s.issue w).hwpath = s.hwpath := rfl
@[simp] theorem State.issue_inflight (w : Word) : (s.issue w).inflight = some w := rfl
@[simp] theorem State.issue_schedValid (w : Word) : (s.issue w).schedValid = s.schedValid := rfl
@[simp] theorem State.issue_err (w : Word) : (s.issue w).err = s.err := rfl
@[simp] theorem State.issue_nr (w : Word) : (s.issue w).nr = s.nr := rfl
@[simp] theorem State.issue_klen (w : Word) : (s.issue w).klen = s.klen := rfl
@[simp] theorem State.issue_result (w : Word) : (s.issue w).result = s.result := rfl
@[simp] theorem State.issue_key (w : Word) : (s.issue w).key = s.key := rfl
@[simp] theorem State.issue_ek (w : Word) : (s.issue w).ek = s.ek := rfl
@[simp] theorem State.issue_dk (w : Word) : (s.issue w).dk = s.dk := rfl
@[simp] theorem State.issue_v (w : Word) : (s.issue w).v = s.v := rfl
@[simp] theorem State.issue_mem (w : Word) : (s.issue w).mem = s.mem := rfl
@[simp] theorem State.issue_inputs (w : Word) : (s.issue w).inputs = s.inputs := rfl
@[simp] theorem State.issue_returned (w : Word) : (s.issue w).returned = s.returned := rfl
@[simp] theorem State.issue_readV (w : Word) (j : VReg) : (s.issue w).readV j = s.readV j := rfl
@[simp] theorem State.issue_keyByte (w : Word) (j : Nat) : (s.issue w).keyByte j = s.keyByte j := rfl
@[simp] theorem State.issue_ekAt (w : Word) (r : Nat) : (s.issue w).ekAt r = s.ekAt r := rfl
@[simp] theorem State.issue_dkAt (w : Word) (r : Nat) : (s.issue w).dkAt r = s.dkAt r := rfl
@[simp] theorem State.issue_encryptBlock (w : Word) (p : Block) : (s.issue w).encryptBlock p = s.encryptBlock p := rfl
@[simp] theorem State.issue_decryptBlock (w : Word) (p : Block) : (s.issue w).decryptBlock p = s.decryptBlock p := rfl

/-! ### `State.setInputs` -/

@[simp] theorem State.setInputs_hwpath (is : List Input) : (s.setInputs is).hwpath = s.hwpath := rfl
@[simp] theorem State.setInputs_inflight (is : List Input) : (s.setInputs is).inflight = s.inflight := rfl
@[simp] theorem State.setInputs_schedValid (is : List Input) : (s.setInputs is).schedValid = s.schedValid := rfl
@[simp] theorem State.setInputs_err (is : List Input) : (s.setInputs is).err = s.err := rfl
@[simp] theorem State.setInputs_nr (is : List Input) : (s.setInputs is).nr = s.nr := rfl
@[simp] theorem State.setInputs_klen (is : List Input) : (s.setInputs is).klen = s.klen := rfl
@[simp] theorem State.setInputs_result (is : List Input) : (s.setInputs is).result = s.result := rfl
@[simp] theorem State.setInputs_key (is : List Input) : (s.setInputs is).key = s.key := rfl
@[simp] theorem State.setInputs_ek (is : List Input) : (s.setInputs is).ek = s.ek := rfl
@[simp] theorem State.setInputs_dk (is : List Input) : (s.setInputs is).dk = s.dk := rfl
@[simp] theorem State.setInputs_v (is : List Input) : (s.setInputs is).v = s.v := rfl
@[simp] theorem State.setInputs_mem (is : List Input) : (s.setInputs is).mem = s.mem := rfl
@[simp] theorem State.setInputs_inputs (is : List Input) : (s.setInputs is).inputs = is := rfl
@[simp] theorem State.setInputs_returned (is : List Input) : (s.setInputs is).returned = s.returned := rfl
@[simp] theorem State.setInputs_readV (is : List Input) (j : VReg) : (s.setInputs is).readV j = s.readV j := rfl
@[simp] theorem State.setInputs_keyByte (is : List Input) (j : Nat) : (s.setInputs is).keyByte j = s.keyByte j := rfl
@[simp] theorem State.setInputs_ekAt (is : List Input) (r : Nat) : (s.setInputs is).ekAt r = s.ekAt r := rfl
@[simp] theorem State.setInputs_dkAt (is : List Input) (r : Nat) : (s.setInputs is).dkAt r = s.dkAt r := rfl
@[simp] theorem State.setInputs_busy (is : List Input) : (s.setInputs is).busy = s.busy := rfl
@[simp] theorem State.setInputs_encryptBlock (is : List Input) (p : Block) : (s.setInputs is).encryptBlock p = s.encryptBlock p := rfl
@[simp] theorem State.setInputs_decryptBlock (is : List Input) (p : Block) : (s.setInputs is).decryptBlock p = s.decryptBlock p := rfl

/-! ### `State.pushReturned` -/

@[simp] theorem State.pushReturned_hwpath (w : Word) : (s.pushReturned w).hwpath = s.hwpath := rfl
@[simp] theorem State.pushReturned_inflight (w : Word) : (s.pushReturned w).inflight = s.inflight := rfl
@[simp] theorem State.pushReturned_schedValid (w : Word) : (s.pushReturned w).schedValid = s.schedValid := rfl
@[simp] theorem State.pushReturned_err (w : Word) : (s.pushReturned w).err = s.err := rfl
@[simp] theorem State.pushReturned_nr (w : Word) : (s.pushReturned w).nr = s.nr := rfl
@[simp] theorem State.pushReturned_klen (w : Word) : (s.pushReturned w).klen = s.klen := rfl
@[simp] theorem State.pushReturned_result (w : Word) : (s.pushReturned w).result = s.result := rfl
@[simp] theorem State.pushReturned_key (w : Word) : (s.pushReturned w).key = s.key := rfl
@[simp] theorem State.pushReturned_ek (w : Word) : (s.pushReturned w).ek = s.ek := rfl
@[simp] theorem State.pushReturned_dk (w : Word) : (s.pushReturned w).dk = s.dk := rfl
@[simp] theorem State.pushReturned_v (w : Word) : (s.pushReturned w).v = s.v := rfl
@[simp] theorem State.pushReturned_mem (w : Word) : (s.pushReturned w).mem = s.mem := rfl
@[simp] theorem State.pushReturned_inputs (w : Word) : (s.pushReturned w).inputs = s.inputs := rfl
@[simp] theorem State.pushReturned_returned (w : Word) : (s.pushReturned w).returned = w :: s.returned := rfl
@[simp] theorem State.pushReturned_readV (w : Word) (j : VReg) : (s.pushReturned w).readV j = s.readV j := rfl
@[simp] theorem State.pushReturned_keyByte (w : Word) (j : Nat) : (s.pushReturned w).keyByte j = s.keyByte j := rfl
@[simp] theorem State.pushReturned_ekAt (w : Word) (r : Nat) : (s.pushReturned w).ekAt r = s.ekAt r := rfl
@[simp] theorem State.pushReturned_dkAt (w : Word) (r : Nat) : (s.pushReturned w).dkAt r = s.dkAt r := rfl
@[simp] theorem State.pushReturned_busy (w : Word) : (s.pushReturned w).busy = s.busy := rfl
@[simp] theorem State.pushReturned_encryptBlock (w : Word) (p : Block) : (s.pushReturned w).encryptBlock p = s.encryptBlock p := rfl
@[simp] theorem State.pushReturned_decryptBlock (w : Word) (p : Block) : (s.pushReturned w).decryptBlock p = s.decryptBlock p := rfl

/-! ### `State.resetBlock` -/

@[simp] theorem State.resetBlock_hwpath : (s.resetBlock).hwpath = State.reset.hwpath := rfl
@[simp] theorem State.resetBlock_inflight : (s.resetBlock).inflight = State.reset.inflight := rfl
@[simp] theorem State.resetBlock_schedValid : (s.resetBlock).schedValid = State.reset.schedValid := rfl
@[simp] theorem State.resetBlock_err : (s.resetBlock).err = State.reset.err := rfl
@[simp] theorem State.resetBlock_nr : (s.resetBlock).nr = State.reset.nr := rfl
@[simp] theorem State.resetBlock_klen : (s.resetBlock).klen = State.reset.klen := rfl
@[simp] theorem State.resetBlock_result : (s.resetBlock).result = State.reset.result := rfl
@[simp] theorem State.resetBlock_key : (s.resetBlock).key = State.reset.key := rfl
@[simp] theorem State.resetBlock_ek : (s.resetBlock).ek = State.reset.ek := rfl
@[simp] theorem State.resetBlock_dk : (s.resetBlock).dk = State.reset.dk := rfl
@[simp] theorem State.resetBlock_v : (s.resetBlock).v = State.reset.v := rfl
@[simp] theorem State.resetBlock_mem : (s.resetBlock).mem = State.reset.mem := rfl
@[simp] theorem State.resetBlock_inputs : (s.resetBlock).inputs = s.inputs := rfl
@[simp] theorem State.resetBlock_returned : (s.resetBlock).returned = s.returned := rfl

/-! ### Accessors of an updated field -/

@[simp] theorem State.busy_retire : s.retire.busy = false := rfl
@[simp] theorem State.busy_issue (w : Word) : (s.issue w).busy = true := rfl

end Sys2Proof.Machine
end

