-- ==== Sys2Proof/Laws/Registers.lean ====
section
/-! SUPPORT. Registers read back: V, KEY, and the slots of the two schedules. -/

namespace Sys2Proof.Machine

/-- A written operand register, and every other one. -/
theorem readV_writeV (s : State) (i j : VReg) (b : Block) :
    (s.writeV i b).readV j = if j = i then b else s.readV j := by
  simp only [State.readV, State.writeV_v, Vector.getElem_set, Fin.ext_iff, eq_comm]

@[simp] theorem readV_writeV_same (s : State) (i : VReg) (b : Block) :
    (s.writeV i b).readV i = b := by simp [readV_writeV]

theorem readV_writeV_other (s : State) {i j : VReg} (b : Block) (h : j ≠ i) :
    (s.writeV i b).readV j = s.readV j := by simp [readV_writeV, h]

/-- R67: the four bytes of a KEY word, and every other byte of KEY. -/
theorem keyByte_setKeyWord (s : State) (k : Nat) (w : Word) (j : Nat) (h : j < 32) :
    (s.setKeyWord k w).keyByte j = if j / 4 = k then wordByte w (j % 4) else s.keyByte j := by
  simp only [State.keyByte, State.setKeyWord_key, Vector.getElem?_setIfInBounds]
  by_cases hk : j / 4 = k
  · rw [if_pos hk]
    have hj : j = 4 * k + j % 4 := by omega
    obtain h' | h' | h' | h' : j % 4 = 0 ∨ j % 4 = 1 ∨ j % 4 = 2 ∨ j % 4 = 3 := by omega
    all_goals
      rw [h'] at hj ⊢
      subst hj
      simp (disch := omega) only [if_neg, if_pos, if_true, Option.getD_some]
  · rw [if_neg hk]
    rw [if_neg (by omega), if_neg (by omega), if_neg (by omega), if_neg (by omega)]

/-- R161: a padded schedule, slot by slot. -/
theorem slot_padSchedule (nr : Nat) (ks : Nat → Block) (r : Nat) :
    slot (padSchedule nr ks) r = if r < 15 ∧ r ≤ nr then ks r else 0 := by
  by_cases h : r < 15
  · simp [slot, padSchedule, h]
  · simp [slot, padSchedule, h]

@[simp] theorem slot_zero (r : Nat) : slot (Vector.replicate 15 0) r = 0 := by
  by_cases h : r < 15 <;> simp [slot, h]

@[simp] theorem installContext_ekAt (s : State) (nr klen : Byte) (ek dk : Vector Block 15) (r : Nat) :
    (s.installContext nr klen ek dk).ekAt r = slot ek r := rfl

@[simp] theorem installContext_dkAt (s : State) (nr klen : Byte) (ek dk : Vector Block 15) (r : Nat) :
    (s.installContext nr klen ek dk).dkAt r = slot dk r := rfl

@[simp] theorem eraseKeys_readV (s : State) (j : VReg) : s.eraseKeys.readV j = 0 := by
  simp [State.readV]

@[simp] theorem eraseKeys_ekAt (s : State) (r : Nat) : s.eraseKeys.ekAt r = 0 := slot_zero r

@[simp] theorem eraseKeys_dkAt (s : State) (r : Nat) : s.eraseKeys.dkAt r = 0 := slot_zero r

@[simp] theorem eraseKeys_keyByte (s : State) (j : Nat) : s.eraseKeys.keyByte j = 0 := by
  by_cases h : j < 32 <;> simp [State.keyByte, h]

end Sys2Proof.Machine
end

