-- ==== Sys2Proof/Laws/Step.lean ====
section
/-! SUPPORT. What each move of the machine can do, said once: the host's accesses, the engine's step, one input, one
step. Later proofs cite these and unfold nothing. -/

namespace Sys2Proof.Machine

@[simp] theorem mapNext_next {σ τ : Type} (f : σ → τ) (s : σ) :
    mapNext f (.next s) = .next (f s) := rfl

theorem mapNext_eq_next {σ τ : Type} {f : σ → τ} {o : Host.Outcome σ Fault Refusal} {t : τ} :
    mapNext f o = .next t ↔ ∃ s, o = .next s ∧ f s = t := by
  cases o <;> simp [mapNext]

/-! ### The host's accesses -/

theorem checkAccess_eq_next {σ : Type} {width off : Nat} {go : Host.Outcome σ Fault Refusal} {t : σ} :
    checkAccess width off go = .next t ↔
      width = 4 ∧ off % 4 = 0 ∧ off < Config.windowBytes ∧ go = .next t := by
  unfold checkAccess
  split_ifs with h1 h2 h3
  · simp [h1]
  · simp [h2]
  · simp only [false_iff]
    omega
  · simp only [ne_eq, not_not, not_le] at h1 h2 h3
    simp [h1, h2, h3]

/-- R66: a read that answers gives the window's word, and only a STATUS read answers while BUSY = 1. -/
theorem memRead_eq_next {width off : Nat} {s : State} {w : Word} :
    memRead width off s = .next w ↔
      width = 4 ∧ off % 4 = 0 ∧ off < Config.windowBytes ∧
        (s.busy = true → off = Config.statusOffset) ∧ s.windowRead off = w := by
  rw [memRead, checkAccess_eq_next]
  by_cases hb : s.busy = true <;> by_cases ho : off = Config.statusOffset <;> simp [hb, ho]

/-- R67: a write that answers is the window's write, with BUSY = 0 before it. -/
theorem memWrite_eq_next {width off : Nat} {w : Word} {s t : State} :
    memWrite width off w s = .next t ↔
      width = 4 ∧ off % 4 = 0 ∧ off < Config.windowBytes ∧ s.busy = false ∧
        s.windowWrite off w = t := by
  rw [memWrite, checkAccess_eq_next]
  by_cases hb : s.busy = true <;> simp [hb]

/-- R62, R66: the register and the word of V that stand at an offset. -/
theorem vIndex_offset (n : VReg) {k : Nat} (h : k < 4) :
    vIndex (Config.vOffset + 16 * n.val + 4 * k) = n ∧
      vWordIndex (Config.vOffset + 16 * n.val + 4 * k) = k := by
  have hn := n.isLt
  refine ⟨Fin.ext ?_, ?_⟩
  · simp only [vIndex, Fin.ofNat]
    omega
  · simp only [vWordIndex]
    omega

/-- Everything a write of the window can do. -/
theorem windowWrite_cases (s : State) (off : Nat) (w : Word) :
    (off = Config.cmdOffset ∧ s.windowWrite off w = s.issue w) ∨
      (inKey off = true ∧ s.schedValid = false ∧
        s.windowWrite off w = s.setKeyWord ((off - Config.keyOffset) / 4) w) ∨
      (inV off = true ∧
        s.windowWrite off w =
          s.writeV (vIndex off) (setBlockWord (s.readV (vIndex off)) (vWordIndex off) w)) ∨
      (inPkt off = true ∧
        s.windowWrite off w =
          s.setMem (s.mem.setPktBytes (off - Config.pktOffset) (wordByte w) 4)) ∨
      s.windowWrite off w = s := by
  unfold State.windowWrite
  split_ifs with h1 h2 h3 h4 h5
  · exact .inl ⟨h1, rfl⟩
  · exact .inr (.inr (.inr (.inr rfl)))
  · exact .inr (.inl ⟨h2, by simpa using h3, rfl⟩)
  · exact .inr (.inr (.inl ⟨h4, rfl⟩))
  · exact .inr (.inr (.inr (.inl ⟨h5, rfl⟩)))
  · exact .inr (.inr (.inr (.inr rfl)))

/-- Everything a move of the host can do: a value read, or a word written. -/
theorem hostAccess_cases {a : Access} {s t : State} (h : hostAccess a s = .next t) :
    (∃ w, t = s.pushReturned w) ∨ (s.busy = false ∧ ∃ off w, t = s.windowWrite off w) := by
  cases a with
  | read width off =>
    obtain ⟨w, -, rfl⟩ := mapNext_eq_next.mp h
    exact .inl ⟨w, rfl⟩
  | write width off w =>
    obtain ⟨-, -, -, hb, rfl⟩ := memWrite_eq_next.mp h
    exact .inr ⟨hb, off, w, rfl⟩

/-- A bus access that answers is the access at its offset from BASE. -/
theorem busAccess_cases {a : Access} {s t : State} (h : busAccess a s = .next t) :
    ∃ a', hostAccess a' s = .next t := by
  cases a <;> simp only [busAccess] at h <;> split_ifs at h <;> exact ⟨_, h⟩

/-! ### The engine -/

/-- R240, R241: every command completes, whatever the state. -/
theorem exec_next (i : Instr) (s : State) : ∃ t, exec i s = .next t := by
  cases i <;> exact ⟨_, rfl⟩

theorem execute_next (w : Word) (s : State) : ∃ t, execute w s = .next t := by
  unfold execute
  split
  · exact ⟨_, rfl⟩
  · exact exec_next _ s

/-- Everything the engine's turn can do: nothing when idle, an illegal word's error code, or a command's meaning, and
then the command is retired. -/
theorem engineStep_cases (s : State) :
    (s.inflight = none ∧ engineStep s = .next s) ∨
      (∃ w, s.inflight = some w ∧ decode w = none ∧
        engineStep s = .next (s.raise .illegal).retire) ∨
      (∃ w i t, s.inflight = some w ∧ decode w = some i ∧ exec i s = .next t ∧
        engineStep s = .next t.retire) := by
  cases hw : s.inflight with
  | none => exact .inl ⟨rfl, by simp [engineStep, hw]⟩
  | some w =>
    cases hd : decode w with
    | none => exact .inr (.inl ⟨w, rfl, hd, by simp [engineStep, hw, execute, hd]⟩)
    | some i =>
      obtain ⟨t, ht⟩ := exec_next i s
      exact .inr (.inr ⟨w, i, t, rfl, hd, ht, by simp [engineStep, hw, execute, hd, ht]⟩)

/-! ### One step -/

/-- What takes the state `u`, less the input of the step, to the state `t` after it. -/
inductive Move (u t : State) : Prop where
  /-- R255: the engine's turn with no command in flight. -/
  | idle (h : u.inflight = none) (ht : t = u)
  /-- R95: an illegal word. -/
  | illegal (w : Word) (hw : u.inflight = some w) (hd : decode w = none)
      (ht : t = (u.raise .illegal).retire)
  /-- R285: a command's meaning. -/
  | command (w : Word) (i : Instr) (r : State) (hw : u.inflight = some w) (hd : decode w = some i)
      (hr : exec i u = .next r) (ht : t = r.retire)
  /-- R66: a value read. -/
  | read (w : Word) (ht : t = u.pushReturned w)
  /-- R67: a word written. -/
  | write (hb : u.busy = false) (off : Nat) (w : Word) (ht : t = u.windowWrite off w)
  /-- R280: a reset. -/
  | reset (ht : t = u.resetBlock)

theorem engineStep_move {u t : State} (h : engineStep u = .next t) : Move u t := by
  rcases engineStep_cases u with ⟨hn, he⟩ | ⟨w, hw, hd, he⟩ | ⟨w, i, r, hw, hd, hr, he⟩ <;>
    rw [he] at h <;> injection h with h
  · exact .idle hn h.symm
  · exact .illegal w hw hd h.symm
  · exact .command w i r hw hd hr h.symm

theorem hostAccess_move {a : Access} {u t : State} (h : hostAccess a u = .next t) : Move u t := by
  rcases hostAccess_cases h with ⟨w, ht⟩ | ⟨hb, off, w, ht⟩
  · exact .read w ht
  · exact .write hb off w ht

theorem step_nil {s : State} (h : s.inputs = []) : step s = engineStep s := by
  simp only [step, h]

theorem step_cons {s : State} {i : Input} {is : List Input} (h : s.inputs = i :: is) :
    step s = takeInput i (s.setInputs is) := by
  simp only [step, h]

@[simp] theorem setInputs_self (s : State) : s.setInputs s.inputs = s := rfl

/-- Where the engine moves next, the step is its step, from the state less its turn. -/
theorem step_engine {s : State} (h : EngineNext s) :
    step s = engineStep (s.setInputs s.inputs.tail) := by
  rcases h with h | h
  · rw [step_nil h, h, List.tail_nil, ← h, setInputs_self]
  · obtain ⟨is, hi⟩ := List.head?_eq_some_iff.mp h
    rw [step_cons hi, hi, List.tail_cons]
    rfl

/-- Whose turn a step is: the engine's, a reset's or the host's, and what it does with the state less its input. -/
theorem step_turn {s t : State} (h : step s = .next t) :
    (EngineNext s ∧ engineStep (s.setInputs s.inputs.tail) = .next t) ∨
      (s.inputs.head? = some .reset ∧ t = (s.setInputs s.inputs.tail).resetBlock) ∨
      (s.inputs.head? ≠ some .reset ∧ ∃ a, hostAccess a (s.setInputs s.inputs.tail) = .next t) := by
  cases hi : s.inputs with
  | nil =>
    rw [step_nil hi] at h
    rw [List.tail_nil, ← hi, setInputs_self]
    exact .inl ⟨.inl hi, h⟩
  | cons i is =>
    rw [step_cons hi] at h
    rw [List.tail_cons, List.head?_cons]
    cases i with
    | access a => exact .inr (.inr ⟨by simp, a, h⟩)
    | bus a => exact .inr (.inr ⟨by simp, busAccess_cases h⟩)
    | secondHost a => exact absurd h (by simp [takeInput])
    | engine => exact .inl ⟨.inr (by rw [hi]; rfl), h⟩
    | reset => exact .inr (.inl ⟨rfl, by simpa [takeInput, eq_comm] using h⟩)

/-- Everything a step can do: one move, from the state less the input it takes. -/
theorem step_move {s t : State} (h : step s = .next t) : Move (s.setInputs s.inputs.tail) t := by
  rcases step_turn h with ⟨-, h⟩ | ⟨-, h⟩ | ⟨-, a, h⟩
  · exact engineStep_move h
  · exact .reset h
  · exact hostAccess_move h

end Sys2Proof.Machine
end

