-- ==== Sys2Proof/Laws/Commands.lean ====
section
/-! SUPPORT. Everything a command's meaning can do, said once, and what follows for the parts of the state that no
command, or only some commands, write. -/

namespace Sys2Proof.Machine

/-- What a command's meaning makes of the state `s`. -/
inductive Effect (s : State) : State → Prop where
  /-- R241: an error code, and nothing else. -/
  | raised (e : ErrCode) : Effect s (s.raise e)
  /-- One operand register written. -/
  | moved (vd : VReg) (b : Block) : Effect s (s.writeV vd b).done
  /-- R161: a context derived from KEY, from SCHED_VALID = 0. -/
  | derived (klen : Nat) (hk : validKlen klen = true) (hs : s.schedValid = false) :
      Effect s
        (s.installContext (BitVec.ofNat 8 (klen / 4 + 6)) (BitVec.ofNat 8 klen)
          (encSlots s.keyByte klen) (decSlots s.keyByte klen)).done
  /-- R164: the keys erased. -/
  | erased : Effect s s.eraseKeys.done
  /-- R213, R214: no sync byte. -/
  | unsynced (hs : (parseHeader s.mem).syncOk = false) : Effect s ((s.setResult 0).raise .badSync)
  /-- R213, R214: the header reported, PROCESSED = 0, the packet as it was; `e` is OK or NO_SCHEDULE. -/
  | reported (e : ErrCode) (hs : (parseHeader s.mem).syncOk = true) :
      Effect s ((s.setResult ((parseHeader s.mem).pack false)).raise e)
  /-- R213: the packet decrypted, under a context. -/
  | decrypted (hs : (parseHeader s.mem).syncOk = true) (hsc : (parseHeader s.mem).scrambled = true)
      (hv : s.schedValid = true) :
      Effect s
        ((s.setMem (clearScrambling
          (mapPayload s.decryptBlock s.mem (parseHeader s.mem).poff (parseHeader s.mem).nblk))).setResult
          ((parseHeader s.mem).pack true)).done

theorem done_eq_raise (s : State) : s.done = s.raise .ok := rfl

theorem primitive_effect (s : State) (vd : VReg) (b : Block) : Effect s (s.primitive vd b) := by
  unfold State.primitive
  split
  · exact .moved vd b
  · exact .raised _

/-- Everything a command can do. -/
theorem exec_effect {i : Instr} {s t : State} (h : exec i s = .next t) : Effect s t := by
  cases i with
  | derive klen =>
    simp only [exec, execDerive] at h
    injection h with h
    subst h
    split_ifs with h1 h2
    · exact .raised _
    · exact .raised _
    · exact .derived klen (by simpa using h1) (by simpa using h2)
  | encb vd vs =>
    simp only [exec, execEncb] at h
    injection h with h
    subst h
    split_ifs
    · exact .raised _
    · exact .moved _ _
  | decb vd vs =>
    simp only [exec, execDecb] at h
    injection h with h
    subst h
    split_ifs
    · exact .raised _
    · exact .moved _ _
  | zeroize =>
    injection h with h
    exact h ▸ .erased
  | pktdec =>
    simp only [exec, execPktdec] at h
    injection h with h
    subst h
    split_ifs with h1 h2 h3
    · exact .unsynced (by simpa using h1)
    · exact .reported .ok (by simpa using h1)
    · exact .reported _ (by simpa using h1)
    · exact .decrypted (by simpa using h1) (by simpa using h2) (by simpa using h3)
  | pktchk =>
    simp only [exec, execPktchk] at h
    injection h with h
    subst h
    split_ifs with h1
    · exact .unsynced (by simpa using h1)
    · exact .reported .ok (by simpa using h1)
  | aesenc vd vs1 vs2 =>
    injection h with h
    exact h ▸ primitive_effect ..
  | aesenclast vd vs1 vs2 =>
    injection h with h
    exact h ▸ primitive_effect ..
  | aesdec vd vs1 vs2 =>
    injection h with h
    exact h ▸ primitive_effect ..
  | aesdeclast vd vs1 vs2 =>
    injection h with h
    exact h ▸ primitive_effect ..
  | aesimc vd vs =>
    injection h with h
    exact h ▸ primitive_effect ..
  | aeskeygenassist vd vs rcon =>
    injection h with h
    exact h ▸ primitive_effect ..
  | vxor vd vs1 vs2 =>
    injection h with h
    exact h ▸ .moved _ _
  | vldrk vd sel idx =>
    simp only [exec, execVldrk] at h
    injection h with h
    subst h
    split_ifs
    · exact .raised _
    · exact .raised _
    · exact .moved _ _

/-- No command's meaning touches CAP, INFLIGHT, the inputs or what the host has read. -/
theorem Effect.control {s t : State} (h : Effect s t) :
    t.hwpath = s.hwpath ∧ t.inflight = s.inflight ∧ t.inputs = s.inputs ∧ t.returned = s.returned := by
  cases h <;> exact ⟨rfl, rfl, rfl, rfl⟩

end Sys2Proof.Machine
end

