-- ==== Sys2Proof/Laws/Decode.lean ====
section
/-! SUPPORT. The fields of a command word, read back from the word that holds them. -/

namespace Sys2Proof

/-- The bits of a command word, lowest field first (R91). -/
theorem getLsbD_commandWord (op : Byte) (vd vs1 vs2 : VReg) (imm8 : Byte) (i : Nat) :
    (commandWord op vd vs1 vs2 imm8).getLsbD i =
      if i < 8 then op.getLsbD i
      else if i - 8 < 3 then (vregBits vd).getLsbD (i - 8)
      else if i - 8 - 3 < 3 then (vregBits vs1).getLsbD (i - 8 - 3)
      else if i - 8 - 3 - 3 < 3 then (vregBits vs2).getLsbD (i - 8 - 3 - 3)
      else if i - 8 - 3 - 3 - 3 < 7 then (0#7).getLsbD (i - 8 - 3 - 3 - 3)
      else imm8.getLsbD (i - 8 - 3 - 3 - 3 - 7) := by
  refine Eq.trans (b := (imm8 ++ 0#7 ++ vregBits vs2 ++ vregBits vs1 ++
    vregBits vd ++ op : BitVec (8 + 7 + 3 + 3 + 3 + 8)).getLsbD i) rfl ?_
  simp only [BitVec.getLsbD_append]

@[simp] theorem vregOf_vregBits (v : VReg) : vregOf (vregBits v) = v := by
  revert v
  decide

@[simp] theorem vregBits_vregOf (f : BitVec 3) : vregBits (vregOf f) = f := by
  revert f
  decide

@[simp] theorem vregBits_zero : vregBits 0 = 0 := rfl

/-- R92, R98: VLDRK's IMM8 holds `idx`, `sel` and three zeros. -/
theorem roundKeyImm_fields (sel : RoundKeySel) {idx : Nat} (h : idx < 16) :
    idxOf (roundKeyImm sel idx) = idx ∧ selOf (roundKeyImm sel idx) = sel ∧
      (roundKeyImm sel idx).extractLsb' 5 3 = 0 := by
  revert idx
  cases sel <;> decide

@[simp] theorem opOf_commandWord (op : Byte) (vd vs1 vs2 : VReg) (imm8 : Byte) :
    opOf (commandWord op vd vs1 vs2 imm8) = op := by
  refine BitVec.eq_of_getLsbD_eq fun i hi => ?_
  rw [opOf, BitVec.getLsbD_extractLsb', decide_eq_true hi, Bool.true_and, getLsbD_commandWord]
  simp (disch := omega) only [if_neg, if_pos]
  congr 1
  omega

@[simp] theorem vdOf_commandWord (op : Byte) (vd vs1 vs2 : VReg) (imm8 : Byte) :
    vdOf (commandWord op vd vs1 vs2 imm8) = vregBits vd := by
  refine BitVec.eq_of_getLsbD_eq fun i hi => ?_
  rw [vdOf, BitVec.getLsbD_extractLsb', decide_eq_true hi, Bool.true_and, getLsbD_commandWord]
  simp (disch := omega) only [if_neg, if_pos]
  congr 1
  omega

@[simp] theorem vs1Of_commandWord (op : Byte) (vd vs1 vs2 : VReg) (imm8 : Byte) :
    vs1Of (commandWord op vd vs1 vs2 imm8) = vregBits vs1 := by
  refine BitVec.eq_of_getLsbD_eq fun i hi => ?_
  rw [vs1Of, BitVec.getLsbD_extractLsb', decide_eq_true hi, Bool.true_and, getLsbD_commandWord]
  simp (disch := omega) only [if_neg, if_pos]
  congr 1
  omega

@[simp] theorem vs2Of_commandWord (op : Byte) (vd vs1 vs2 : VReg) (imm8 : Byte) :
    vs2Of (commandWord op vd vs1 vs2 imm8) = vregBits vs2 := by
  refine BitVec.eq_of_getLsbD_eq fun i hi => ?_
  rw [vs2Of, BitVec.getLsbD_extractLsb', decide_eq_true hi, Bool.true_and, getLsbD_commandWord]
  simp (disch := omega) only [if_neg, if_pos]
  congr 1
  omega

@[simp] theorem rsvOf_commandWord (op : Byte) (vd vs1 vs2 : VReg) (imm8 : Byte) :
    rsvOf (commandWord op vd vs1 vs2 imm8) = 0 := by
  refine BitVec.eq_of_getLsbD_eq fun i hi => ?_
  rw [rsvOf, BitVec.getLsbD_extractLsb', decide_eq_true hi, Bool.true_and, getLsbD_commandWord]
  simp (disch := omega) only [if_neg, if_pos]
  simp

@[simp] theorem imm8Of_commandWord (op : Byte) (vd vs1 vs2 : VReg) (imm8 : Byte) :
    imm8Of (commandWord op vd vs1 vs2 imm8) = imm8 := by
  refine BitVec.eq_of_getLsbD_eq fun i hi => ?_
  rw [imm8Of, BitVec.getLsbD_extractLsb', decide_eq_true hi, Bool.true_and, getLsbD_commandWord]
  simp (disch := omega) only [if_neg]
  congr 1
  omega

end Sys2Proof
end

