-- ==== Sys2Proof/Laws/Flags.lean ====
section
/-! SUPPORT. The status words as fields put side by side, and the header's fields. -/

namespace Sys2Proof.Machine

/-- The codes of STATUS.ERR differ. -/
theorem errNumber_injective {a b : ErrCode} (h : errNumber a = errNumber b) : a = b := by
  cases a <;> cases b <;> first | rfl | simp [errNumber] at h

theorem bitWord_injective {a b : Bool} (h : bitWord a = bitWord b) : a = b := by
  cases a <;> cases b <;> simp_all [bitWord]

/-- R211: a packet is scrambled exactly when bit 7 of its byte 3 is set. -/
theorem scrambledSc_header (b : Byte) : scrambledSc (b.extractLsb' 6 2) = b.getLsbD 7 := by
  revert b
  decide

theorem payloadOffset_bounds (afp : Bool) (afl : Byte) :
    4 ≤ payloadOffset afp afl ∧ payloadOffset afp afl ≤ 260 := by
  have h : payloadOffset afp afl = 4 + (if afp then 1 + afl.toNat else 0) := rfl
  have hl := afl.isLt
  rw [h]
  split <;> omega

theorem validKlen_iff (klen : Nat) : validKlen klen = true ↔ klen = 16 ∨ klen = 24 ∨ klen = 32 := by
  simp [validKlen, or_assoc]

end Sys2Proof.Machine
end

