-- ==== Sys2Proof/Laws/PerInstr.lean ====
section
/-! SUPPORT. A law of every command as data, one lemma per constructor: its word carries its row's opcode and RSV = 0. -/

namespace Sys2Proof.Laws

/-- R91, R93: the word of a command carries the opcode of the row with its mnemonic, and RSV is 0. -/
def EncodedRow.Statement (i : Instr) : Prop :=
  (∃ r ∈ opcodeTable, r.mnemonic = i.mnemonic ∧ r.opcode = opOf (encode i)) ∧
    rsvOf (encode i) = 0

theorem EncodedRow.of_row {i : Instr} (r : OpcodeRow) (hr : r ∈ opcodeTable)
    (hm : r.mnemonic = i.mnemonic) (ho : r.opcode = opOf (encode i)) (hs : rsvOf (encode i) = 0) :
    EncodedRow.Statement i := ⟨⟨r, hr, hm, ho⟩, hs⟩

theorem EncodedRow.derive (klen : Nat) : EncodedRow.Statement (.derive klen) :=
  EncodedRow.of_row ⟨"DERIVE", 0x01, 0x00FFFFFF, 0x00000001, false⟩ (by decide) rfl
    (opOf_commandWord ..).symm (rsvOf_commandWord ..)

theorem EncodedRow.encb (vd vs : VReg) : EncodedRow.Statement (.encb vd vs) :=
  EncodedRow.of_row ⟨"ENCB", 0x02, 0xFFFFC0FF, 0x00000002, false⟩ (by decide) rfl
    (opOf_commandWord ..).symm (rsvOf_commandWord ..)

theorem EncodedRow.decb (vd vs : VReg) : EncodedRow.Statement (.decb vd vs) :=
  EncodedRow.of_row ⟨"DECB", 0x03, 0xFFFFC0FF, 0x00000003, false⟩ (by decide) rfl
    (opOf_commandWord ..).symm (rsvOf_commandWord ..)

theorem EncodedRow.zeroize : EncodedRow.Statement .zeroize :=
  EncodedRow.of_row ⟨"ZEROIZE", 0x04, 0xFFFFFFFF, 0x00000004, false⟩ (by decide) rfl
    (opOf_commandWord ..).symm (rsvOf_commandWord ..)

theorem EncodedRow.pktdec : EncodedRow.Statement .pktdec :=
  EncodedRow.of_row ⟨"PKTDEC", 0x10, 0xFFFFFFFF, 0x00000010, false⟩ (by decide) rfl
    (opOf_commandWord ..).symm (rsvOf_commandWord ..)

theorem EncodedRow.pktchk : EncodedRow.Statement .pktchk :=
  EncodedRow.of_row ⟨"PKTCHK", 0x11, 0xFFFFFFFF, 0x00000011, false⟩ (by decide) rfl
    (opOf_commandWord ..).symm (rsvOf_commandWord ..)

theorem EncodedRow.aesenc (vd vs1 vs2 : VReg) : EncodedRow.Statement (.aesenc vd vs1 vs2) :=
  EncodedRow.of_row ⟨"AESENC", 0x20, 0xFFFE00FF, 0x00000020, true⟩ (by decide) rfl
    (opOf_commandWord ..).symm (rsvOf_commandWord ..)

theorem EncodedRow.aesenclast (vd vs1 vs2 : VReg) : EncodedRow.Statement (.aesenclast vd vs1 vs2) :=
  EncodedRow.of_row ⟨"AESENCLAST", 0x21, 0xFFFE00FF, 0x00000021, true⟩ (by decide) rfl
    (opOf_commandWord ..).symm (rsvOf_commandWord ..)

theorem EncodedRow.aesdec (vd vs1 vs2 : VReg) : EncodedRow.Statement (.aesdec vd vs1 vs2) :=
  EncodedRow.of_row ⟨"AESDEC", 0x22, 0xFFFE00FF, 0x00000022, true⟩ (by decide) rfl
    (opOf_commandWord ..).symm (rsvOf_commandWord ..)

theorem EncodedRow.aesdeclast (vd vs1 vs2 : VReg) : EncodedRow.Statement (.aesdeclast vd vs1 vs2) :=
  EncodedRow.of_row ⟨"AESDECLAST", 0x23, 0xFFFE00FF, 0x00000023, true⟩ (by decide) rfl
    (opOf_commandWord ..).symm (rsvOf_commandWord ..)

theorem EncodedRow.aesimc (vd vs : VReg) : EncodedRow.Statement (.aesimc vd vs) :=
  EncodedRow.of_row ⟨"AESIMC", 0x24, 0xFFFFC0FF, 0x00000024, true⟩ (by decide) rfl
    (opOf_commandWord ..).symm (rsvOf_commandWord ..)

theorem EncodedRow.aeskeygenassist (vd vs : VReg) (rcon : Byte) : EncodedRow.Statement (.aeskeygenassist vd vs rcon) :=
  EncodedRow.of_row ⟨"AESKEYGENASSIST", 0x25, 0x00FFC0FF, 0x00000025, true⟩ (by decide) rfl
    (opOf_commandWord ..).symm (rsvOf_commandWord ..)

theorem EncodedRow.vxor (vd vs1 vs2 : VReg) : EncodedRow.Statement (.vxor vd vs1 vs2) :=
  EncodedRow.of_row ⟨"VXOR", 0x30, 0xFFFE00FF, 0x00000030, false⟩ (by decide) rfl
    (opOf_commandWord ..).symm (rsvOf_commandWord ..)

theorem EncodedRow.vldrk (vd : VReg) (sel : RoundKeySel) (idx : Nat) : EncodedRow.Statement (.vldrk vd sel idx) :=
  EncodedRow.of_row ⟨"VLDRK", 0x31, 0xE0FFF8FF, 0x00000031, false⟩ (by decide) rfl
    (opOf_commandWord ..).symm (rsvOf_commandWord ..)

end Sys2Proof.Laws
end

