-- ==== Sys2Proof/Machine/Assembler.lean ====
section
/-! DEFINITION. The assembler's line syntax and pseudo-instructions (R98, R99). Nothing in the machine's step uses this
file. A line is a list of characters, so that Lean's kernel can evaluate it. -/

namespace Sys2Proof.Machine

/-- The tokens of a line: runs of characters between spaces and commas. DESIGN CHOICE (log entry 7): a comma separates
like a space. -/
def lineTokens (line : List Char) : List (List Char) :=
  (line.foldr
    (fun c ts =>
      if c = ' ' ∨ c = ',' then [] :: ts
      else
        match ts with
        | [] => [[c]]
        | t :: ts => (c :: t) :: ts)
    [[]]).filter fun t => !t.isEmpty

/-- The value of a digit in base 16. -/
def digitValue (c : Char) : Option Nat :=
  let n := c.toLower.toNat
  if 48 ≤ n ∧ n ≤ 57 then some (n - 48)
  else if 97 ≤ n ∧ n ≤ 102 then some (n - 87)
  else none

/-- The number spelled by digits of a base, the value so far being `acc`. -/
def digitsFrom (base : Nat) : Nat → List Char → Option Nat
  | acc, [] => some acc
  | acc, c :: cs =>
    match digitValue c with
    | some d => if d < base then digitsFrom base (base * acc + d) cs else none
    | none => none

/-- R98: an immediate, in decimal or `0x` hex. -/
def immediate (t : List Char) : Option Nat :=
  match t with
  | [] => none
  | ['0', 'x'] => none
  | '0' :: 'x' :: cs => digitsFrom 16 0 cs
  | cs => digitsFrom 10 0 cs

/-- R98: a register `v0` … `v7`. -/
def register (t : List Char) : Option VReg :=
  match t with
  | [v, d] =>
    if v.toLower = 'v' then
      match digitValue d with
      | some n => if h : n < 8 then some ⟨n, h⟩ else none
      | none => none
    else none
  | _ => none

/-- R98: the schedule a `vldrk` line names. -/
def schedule (t : List Char) : Option RoundKeySel :=
  if t.map Char.toLower = ['e', 'k'] then some .ek
  else if t.map Char.toLower = ['d', 'k'] then some .dk
  else none

/-- Two register operands. -/
def twoRegisters (f : VReg → VReg → Instr) : List (List Char) → Option Instr
  | [a, b] => do return f (← register a) (← register b)
  | _ => none

/-- Three register operands. -/
def threeRegisters (f : VReg → VReg → VReg → Instr) : List (List Char) → Option Instr
  | [a, b, c] => do return f (← register a) (← register b) (← register c)
  | _ => none

/-- The operands of a line whose mnemonic has no operand, or any mix of registers and immediates. -/
def otherOperands (m : List Char) (ops : List (List Char)) : Option Instr :=
  if m = ['d', 'e', 'r', 'i', 'v', 'e'] then
    match ops with
    | [n] => do return .derive (← immediate n)
    | _ => none
  else if m = ['z', 'e', 'r', 'o', 'i', 'z', 'e'] then (if ops = [] then some .zeroize else none)
  else if m = ['p', 'k', 't', 'd', 'e', 'c'] then (if ops = [] then some .pktdec else none)
  else if m = ['p', 'k', 't', 'c', 'h', 'k'] then (if ops = [] then some .pktchk else none)
  else if m = ['a', 'e', 's', 'k', 'e', 'y', 'g', 'e', 'n', 'a', 's', 's', 'i', 's', 't'] then
    match ops with
    | [a, b, n] => do
      let rcon ← immediate n
      if rcon < 256 then return .aeskeygenassist (← register a) (← register b) (BitVec.ofNat 8 rcon)
      else none
    | _ => none
  else if m = ['v', 'l', 'd', 'r', 'k'] then
    match ops with
    | [a, k, n] => do return .vldrk (← register a) (← schedule k) (← immediate n)
    | _ => none
  else if m = ['v', 'z', 'e', 'r', 'o'] then
    match ops with
    | [a] => do return vzero (← register a)
    | _ => none
  else none

/-- R98, R99: the command a line spells, mnemonics case-insensitive; `none` where it spells none, or one that no
command word holds. -/
def assemble (line : List Char) : Option Instr :=
  match lineTokens line with
  | [] => none
  | m :: ops =>
    let m := m.map Char.toLower
    (if m = ['e', 'n', 'c', 'b'] then twoRegisters .encb ops
      else if m = ['d', 'e', 'c', 'b'] then twoRegisters .decb ops
      else if m = ['e', 'n', 'c', 'r', 'y', 'p', 't'] then twoRegisters encrypt ops
      else if m = ['d', 'e', 'c', 'r', 'y', 'p', 't'] then twoRegisters decrypt ops
      else if m = ['a', 'e', 's', 'i', 'm', 'c'] then twoRegisters .aesimc ops
      else if m = ['a', 'e', 's', 'e', 'n', 'c'] then threeRegisters .aesenc ops
      else if m = ['a', 'e', 's', 'e', 'n', 'c', 'l', 'a', 's', 't'] then threeRegisters .aesenclast ops
      else if m = ['a', 'e', 's', 'd', 'e', 'c'] then threeRegisters .aesdec ops
      else if m = ['a', 'e', 's', 'd', 'e', 'c', 'l', 'a', 's', 't'] then threeRegisters .aesdeclast ops
      else if m = ['v', 'x', 'o', 'r'] then threeRegisters .vxor ops
      else otherOperands m ops).filter Instr.wellFormed

end Sys2Proof.Machine
end

