-- ==== Sys2Proof/Tests/Slice0.lean ====
section
/-! SUPPORT. Tests against the spec's own worked examples and tables (95_test_vectors.md and the rules named), and a witness
for each statement that has hypotheses. -/

-- One theorem at a time: each is a kernel evaluation, and many at once would need a thread and its stack each.
set_option Elab.async false

namespace Sys2Proof.Tests

open Sys2Proof Sys2Proof.Machine

/-! ### Small states -/

/-- R11: the block written byte 0 first, as the spec writes its byte strings. -/
def blk (n : Nat) : Block := blockOfBytes fun j => BitVec.ofNat 8 (n >>> (8 * (15 - j)))

/-- The machine after reset on a given cipher path. -/
def onPath (path : Bool) : State := { State.reset with hwpath := path }

/-- The state a command leaves, or the given one where it leaves none. -/
def after (i : Instr) (s : State) : State :=
  match exec i s with
  | .next t => t
  | _ => s

/-- Every command completes. -/
theorem exec_after (i : Instr) (s : State) : exec i s = .next (after i s) := by cases i <;> rfl

/-- The state a step leaves, or the given one where it leaves none. -/
def stepped (s : State) : State :=
  match step s with
  | .next t => t
  | _ => s

/-- The step answers a next state. -/
def answers (s : State) : Bool :=
  match step s with
  | .next _ => true
  | _ => false

theorem step_stepped {s : State} (h : answers s = true) : step s = .next (stepped s) := by
  unfold answers stepped at *
  split at h <;> simp_all

/-- K0 of 95_test_vectors.md: the key bytes 00, 01, 02, …, all 32 of them. -/
def keyed : State := { onPath true with key := Vector.ofFn fun i => BitVec.ofNat 8 i.val }

/-- The context of `derive 16` on K0. -/
def derived : State := after (.derive 16) keyed

/-- V[0] and V[1] given, on the hardware-intrinsic path. -/
def withV (a b : Block) : State := ((onPath true).writeV 0 a).writeV 1 b

/-- A sync-valid packet with the given bytes 3 and 4, the rest zero. -/
def packet (b3 b4 : Byte) : Memory :=
  Memory.setPktByte (Memory.setPktByte (Memory.setPktByte [] 0 0x47) 3 b3) 4 b4

/-- SC = 10, AFP = 1, AFL = 152: one payload block, the ciphertext of FIPS-197 C.1, at PKT[157..172]. -/
def scrambled : State :=
  derived.setMem
    ((packet 0xB0 152).setPktBlock 157 (blk 0x69c4e0d86a7b0430d8cdb78070b4c55a))

/-- A command in flight and the engine's turn next. -/
def flying (w : Word) : State := (onPath true).issue w

/-- The state with the given inputs still to come. -/
def given (is : List Input) (s : State) : State := s.setInputs is

/-! ### WellFormed: each check refuses its ill-formed term -/

theorem test_wf_derive_refuses : (Instr.derive 256).wellFormed = false := by decide
theorem test_wf_derive_takes : (Instr.derive 255).wellFormed = true := by decide
theorem test_wf_vldrk_refuses : (Instr.vldrk 0 .ek 16).wellFormed = false := by decide
theorem test_wf_vldrk_takes : (Instr.vldrk 7 .dk 15).wellFormed = true := by decide

/-! ### Decoding, one word written out for each command (R98, 95 §3.9) -/

theorem test_decode_derive : decode 0x10000001#32 = some (.derive 16) := by decide
theorem test_decode_encb : decode 0x00000102#32 = some (.encb 1 0) := by decide
theorem test_decode_decb : decode 0x00000A03#32 = some (.decb 2 1) := by decide
theorem test_decode_zeroize : decode 0x00000004#32 = some .zeroize := by decide
theorem test_decode_pktdec : decode 0x00000010#32 = some .pktdec := by decide
theorem test_decode_pktchk : decode 0x00000011#32 = some .pktchk := by decide
theorem test_decode_aesenc : decode 0x00004020#32 = some (.aesenc 0 0 1) := by decide
theorem test_decode_aesenclast : decode 0x00004021#32 = some (.aesenclast 0 0 1) := by decide
theorem test_decode_aesdec : decode 0x00004022#32 = some (.aesdec 0 0 1) := by decide
theorem test_decode_aesdeclast : decode 0x00004023#32 = some (.aesdeclast 0 0 1) := by decide
theorem test_decode_aesimc : decode 0x00001324#32 = some (.aesimc 3 2) := by decide
theorem test_decode_aeskeygenassist :
    decode 0x36000A25#32 = some (.aeskeygenassist 2 1 0x36) := by decide
theorem test_decode_vxor : decode 0x00011D30#32 = some (.vxor 5 3 4) := by decide
theorem test_decode_vldrk_dk : decode 0x1F000031#32 = some (.vldrk 0 .dk 15) := by decide
theorem test_decode_vldrk_ek : decode 0x0A000131#32 = some (.vldrk 1 .ek 10) := by decide

/-- 95 §3.9: the rows that are ILLEGAL on both paths. -/
theorem test_decode_illegal :
    decode 0x00000000#32 = none ∧ decode 0x00000005#32 = none ∧ decode 0x000000FF#32 = none ∧
      decode 0x00000104#32 = none ∧ decode 0x00020002#32 = none ∧ decode 0x01000102#32 = none ∧
      decode 0x00004102#32 = none ∧ decode 0x10000101#32 = none ∧ decode 0x20000031#32 = none := by
  refine ⟨?_, ?_, ?_, ?_, ?_, ?_, ?_, ?_, ?_⟩ <;> decide

/-- 95 §3.9: a primitive's word on each path. -/
theorem test_decode_primitive_path :
    decodeOn false 0x00004020#32 = none ∧ decodeOn true 0x00004020#32 = some (.aesenc 0 0 1) := by
  decide

theorem test_encode_vldrk : encode (.vldrk 1 .dk 1) = 0x11000131#32 := by decide
theorem test_encode_aesenc : encode (.aesenc 0 0 1) = 0x00004020#32 := by decide

/-- The rows of the opcode map do not overlap, and each row's match has no bit outside its mask. -/
theorem test_table_rows_disjoint :
    opcodeTable.Pairwise (fun r q => (r.pattern ^^^ q.pattern) &&& r.mask &&& q.mask ≠ 0) ∧
      ∀ r ∈ opcodeTable, r.pattern &&& r.mask = r.pattern := by decide

theorem test_table_word : decodeTableWord 32 0x0001FF30 = some (.vxor 7 7 7) := by decide

/-! ### The cipher functions (95 §3.1) -/

theorem test_gfMul : gfMul 0x57 0x83 = 0xC1 ∧ xtime 0xFF = 0xE5 := by decide

theorem test_shiftRows :
    shiftRows (blk 0x000102030405060708090a0b0c0d0e0f) = blk 0x00050a0f04090e03080d02070c01060b ∧
      invShiftRows (blk 0x000102030405060708090a0b0c0d0e0f) =
        blk 0x000d0a0704010e0b0805020f0c090603 := by decide +kernel

theorem test_mixColumns :
    mixColumns (blk 0xdb135345f20a225c2d26314cd4d4d4d5) = blk 0x8e4da1bc9fdc589d4d7ebdf8d5d5d7d6 ∧
      invMixColumns (blk 0x8e4da1bc9fdc589d4d7ebdf8d5d5d7d6) =
        blk 0xdb135345f20a225c2d26314cd4d4d4d5 := by decide +kernel

/-- R123, R124: the tables undo each other on every byte. -/
theorem test_sbox_tables : ∀ x : Byte, invSbox (sbox x) = x ∧ sbox (invSbox x) = x := by
  decide +kernel

/-! ### The commands, one step each -/

/-- R161: STATUS, and 95 §3.2.2: EK[1] of K0 (whose KEY[16..31] are ignored). -/
theorem test_derive :
    derived.statusWord = 0x00100A02 ∧
      derived.ekAt 1 = blk 0xd6aa74fdd2af72fadaa678f1d6ab76fe ∧ derived.ekAt 11 = 0 := by
  decide +kernel

/-- 95 §3.2.6: the size is checked before the context. -/
theorem test_derive_errors :
    (after (.derive 17) (onPath true)).statusWord = 0x00000020 ∧
      (after (.derive 20) derived).statusWord = 0x00100A22 ∧
      (after (.derive 16) derived).statusWord = 0x00100A42 := by decide +kernel

/-- R162: FIPS-197 C.1. -/
theorem test_encb :
    (after (.encb 1 0) (derived.writeV 0 (blk 0x00112233445566778899aabbccddeeff))).readV 1 =
      blk 0x69c4e0d86a7b0430d8cdb78070b4c55a := by decide +kernel

theorem test_encb_no_schedule : (after (.encb 1 0) (onPath true)).statusWord = 0x00000030 := by
  decide +kernel

/-- R163: the example, in place. -/
theorem test_decb :
    (after (.decb 1 1) (derived.writeV 1 (blk 0x69c4e0d86a7b0430d8cdb78070b4c55a))).readV 1 =
      blk 0x00112233445566778899aabbccddeeff := by decide +kernel

theorem test_decb_no_schedule : (after (.decb 1 0) (onPath true)).statusWord = 0x00000030 := by
  decide +kernel

/-- 95 §3.4: KEY, the schedules and V erased, the packet kept. -/
theorem test_zeroize :
    (after .zeroize (scrambled.writeV 7 1)).statusWord = 0 ∧
      (after .zeroize (scrambled.writeV 7 1)).readV 7 = 0 ∧
      (after .zeroize scrambled).keyByte 15 = 0 ∧ (after .zeroize scrambled).mem.pktByte 3 = 0xB0 := by
  decide +kernel

/-- 95 §3.5.1. -/
theorem test_aesenc :
    (after (.aesenc 0 0 1)
      (withV (blk 0x193de3bea0f4e22b9ac68d2ae9f84808) (blk 0xa0fafe1788542cb123a339392a6c7605))).readV
        0 = blk 0xa49c7ff2689f352b6b5bea43026a5049 := by decide +kernel

/-- 95 §3.5.1: on the portable path. -/
theorem test_aesenc_portable :
    (after (.aesenc 0 0 1) (onPath false)).statusWord = 0x00000010 ∧
      (after (.aesenc 0 0 1) (onPath false)).readV 0 = 0 := by decide +kernel

theorem test_aesenclast :
    (after (.aesenclast 0 0 1)
      (withV (blk 0xeb40f21e592e38848ba113e71bc342d2) (blk 0xd014f9a8c9ee2589e13f0cc8b6630ca6))).readV
        0 = blk 0x3925841d02dc09fbdc118597196a0b32 := by decide +kernel

theorem test_aesdec :
    (after (.aesdec 0 0 1)
      (withV (blk 0xe9317db5cb322c723d2e895faf090794) (blk 0x0c7b5a631319eafeb0398890664cfbb4))).readV
        0 = blk 0x876e46a6f24ce78c4d904ad897ecc395 := by decide +kernel

theorem test_aesdeclast :
    (after (.aesdeclast 0 0 1)
      (withV (blk 0xd4bf5d30e0b452aeb84111f11e2798e5) (blk 0x2b7e151628aed2a6abf7158809cf4f3c))).readV
        0 = blk 0x3243f6a8885a308d313198a2e0370734 := by decide +kernel

theorem test_aesimc :
    (after (.aesimc 2 1) (withV 0 (blk 0xac7766f319fadc2128d12941575c006e))).readV 2 =
      blk 0x0c7b5a631319eafeb0398890664cfbb4 := by decide +kernel

theorem test_aeskeygenassist :
    (after (.aeskeygenassist 2 1 0x01) (withV 0 (blk 0x2b7e151628aed2a6abf7158809cf4f3c))).readV 2 =
      blk 0x34e4b524e5b52434018a84eb8b84eb01 := by decide +kernel

theorem test_vxor :
    (after (.vxor 0 0 1)
      (withV (blk 0x3243f6a8885a308d313198a2e0370734) (blk 0x2b7e151628aed2a6abf7158809cf4f3c))).readV
        0 = blk 0x193de3bea0f4e22b9ac68d2ae9f84808 := by decide +kernel

/-- R188: DK[10] is EK[0], the first 16 key bytes. -/
theorem test_vldrk :
    (after (.vldrk 1 .dk 10) derived).readV 1 = blk 0x000102030405060708090a0b0c0d0e0f := by
  decide +kernel

/-- 95 §3.6: NO_SCHEDULE before BAD_INDEX. -/
theorem test_vldrk_errors :
    (after (.vldrk 1 .ek 11) derived).err = .badIndex ∧
      (after (.vldrk 1 .ek 11) (onPath true)).err = .noSchedule := by decide +kernel

/-- One block decrypted in place, SC cleared, RESULT and the rest as R213 says. -/
theorem test_pktdec :
    (after .pktdec scrambled).mem.pktBlock 157 = blk 0x00112233445566778899aabbccddeeff ∧
      (after .pktdec scrambled).mem.pktByte 3 = 0x30 ∧
      (after .pktdec scrambled).result = 0x00109D2F := by decide +kernel

/-- 95 §3.7: no block, SC still cleared; no context; no sync. -/
theorem test_pktdec_edges :
    (after .pktdec (derived.setMem (packet 0xA0 255))).result = 0x0001042F ∧
      (after .pktdec (derived.setMem (packet 0xA0 255))).mem.pktByte 3 = 0x20 ∧
      (after .pktdec ((onPath true).setMem (packet 0xD0 0))).result = 0x00B00433 ∧
      (after .pktdec (onPath true)).err = .badSync := by decide +kernel

/-- 95 §3.7, rows of the header parser's table. -/
theorem test_pktchk :
    (after .pktchk ((onPath true).setMem (packet 0x50 9))).result = 0x00B00411 ∧
      (after .pktchk ((onPath true).setMem (packet 0xB0 10))).result = 0x00A00F2B ∧
      (after .pktchk ((onPath true).setMem (packet 0xB0 167))).result = 0x0010AC2B ∧
      (after .pktchk ((onPath true).setMem (packet 0xE0 183))).result = 0x0000BC3B := by
  decide +kernel

theorem test_pktchk_bad_sync : (after .pktchk (onPath true)).statusWord = 0x00000060 := by
  decide +kernel

/-! ### The window, reset and the step (95 §3.10, §3.11) -/

theorem test_read_cap :
    memRead 4 0x000 (onPath true) = .next 1 ∧ memRead 4 0x000 (onPath false) = .next 0 :=
  ⟨rfl, rfl⟩

theorem test_write_pkt :
    ((onPath true).windowWrite 0x2B8 0xAABBCCDD).mem =
      [(0x2B8, 0xDD), (0x2B9, 0xCC), (0x2BA, 0xBB), (0x2BB, 0xAA)] := by decide +kernel

theorem test_write_v :
    blockByte (((onPath true).windowWrite 0x17C 0x33221100).readV 7) 15 = 0x33 ∧
      blockByte (((onPath true).windowWrite 0x17C 0x33221100).readV 7) 12 = 0x00 := by decide +kernel

theorem test_write_key :
    ((onPath true).windowWrite 0x040 0x03020100).keyByte 3 = 3 ∧
      (derived.windowWrite 0x040 0xFFFFFFFF).keyByte 0 = 0 := by decide +kernel

theorem test_bus_errors :
    memRead 1 0x100 (onPath true) = .fault .busWidth ∧
      memRead 4 0x102 (onPath true) = .fault .busAlign ∧
      memRead 4 0x400 (onPath true) = .refused .outsideWindow ∧
      memRead 4 0x100 (flying 4) = .fault .protocol := ⟨rfl, rfl, rfl, rfl⟩

/-- A word stored where the step takes its command from runs as the first command after reset. -/
theorem test_step_fetch :
    step (State.reset.withFetchWord 32 0x00000001) = .next { State.reset with err := .invalidKeySize } := by
  rfl

theorem test_step_illegal :
    step (State.reset.withFetchWord 32 0) = .next { State.reset with err := .illegal } := by rfl

/-! ### The host's side -/

/-- 95 §1.1: the container's bytes 0 .. 15 in KEY order. -/
theorem test_key_from_container :
    ((List.range 16).map (keyFromContainer fun j => BitVec.ofNat 8 (j - 8))) =
      [3, 2, 1, 0, 7, 6, 5, 4, 11, 10, 9, 8, 15, 14, 13, 12] := by decide +kernel

/-- R100's example of packing. -/
theorem test_ldv :
    ldv 0 (blk 0x00112233445566778899aabbccddeeff) =
      [wr 0x100 0x33221100, wr 0x104 0x77665544, wr 0x108 0xBBAA9988, wr 0x10C 0xFFEEDDCC] := by
  decide +kernel

/-- R265, P3: 47 writes, the CMD write, two polls, the engine's turn, the wait's last read, and STATUS read once more. -/
theorem test_decode_packet :
    (decodePacket 2 fun _ => 0x47).length = 53 ∧
      (decodePacket 2 fun _ => 0x47).drop 47 =
        [wr 0x008 0x00000010, rd 0x004, rd 0x004, .engine, rd 0x004, rd 0x004] := by decide +kernel

theorem test_assemble :
    assemble "AESKEYGENASSIST v2, v1, 0x01".toList = some (.aeskeygenassist 2 1 1) ∧
      assemble "vldrk v1, dk, 1".toList = some (.vldrk 1 .dk 1) ∧
      assemble "vzero v7".toList = some (.vxor 7 7 7) ∧
      assemble "derive 256".toList = none := by decide +kernel

/-! ### Witnesses: the hypotheses of each statement, met together -/

/-- DecodeInvertsEncode, EncodeIsTheLineFormula: at the last value of each field. -/
theorem witness_decode_inverts :
    decode (encode (.derive 255)) = some (.derive 255) ∧
      decode (encode (.vldrk 7 .dk 15)) = some (.vldrk 7 .dk 15) ∧
      decode (encode (.aeskeygenassist 7 7 0xFF)) = some (.aeskeygenassist 7 7 0xFF) ∧
      encode (.derive 255) = lineWord 0x01 0 0 0 255 ∧
      encode (.vldrk 7 .dk 15) = lineWord 0x31 7 0 0 (15 ||| 1 <<< 4) := by decide +kernel

/-- EncodeInvertsDecode, DecodeIsTheOpcodeMap: a word that decodes, and the row it spells. -/
theorem witness_encode_inverts :
    decode 0xFF000001#32 = some (.derive 255) ∧
      ∃ r ∈ opcodeTable, 0xFF000001#32 &&& r.mask = r.pattern := by decide +kernel

/-- IllegalWordsChangeOnlyErr: a word, and a state, for each of its three cases. -/
theorem witness_illegal :
    (∀ r ∈ opcodeTable, r.opcode ≠ opOf 0x00000032#32) ∧
      (∃ r ∈ opcodeTable, r.opcode = opOf 0x00020002#32 ∧ 0x00020002#32 &&& r.mask ≠ r.pattern) ∧
      (∃ r ∈ opcodeTable, r.opcode = opOf 0x00000025#32 ∧ r.hwpathOnly = true ∧
        (onPath false).hwpath = false) := by decide +kernel

/-- SboxIsInverseThenAffine: an inverse pair. -/
theorem witness_inverse : gfMul 0x53 0xCA = 1 ∧ sbox 0x53 = 0xED := by decide +kernel

/-- KeyExpansionFollowsTheLoop: the first and the last word of the loop, for the three key sizes. -/
theorem witness_key_expansion :
    expandedWord keyed.keyByte 4 3 = wordOfBytes (fun k => keyed.keyByte (12 + k)) ∧
      ∀ nk ∈ [4, 6, 8], nk ≤ 4 * (nk + 7) - 1 ∧ 4 * (nk + 7) - 1 < 4 * (nk + 7) := by decide +kernel

/-- KeyGenAssistGivesNextRoundKey: 95 §3.5.3, its case r = 1. -/
theorem witness_next_round_key :
    keyGenAssist (blk 0x2b7e151628aed2a6abf7158809cf4f3c) (roundConst 1) =
      blk 0x34e4b524e5b52434018a84eb8b84eb01 := by decide +kernel

/-- DeriveCommand: a length and a state for each clause, at the boundaries of the lengths. -/
theorem witness_derive :
    (∀ klen ∈ [0, 15, 17, 23, 25, 31, 33, 255], ¬(klen = 16 ∨ klen = 24 ∨ klen = 32)) ∧
      derived.schedValid = true ∧ keyed.schedValid = false := by decide +kernel

/-- DeriveIgnoresBytesPastKlen: two keys that differ in the byte at index 16 alone. -/
theorem witness_bytes_past_klen :
    keyed.schedValid = false ∧ (keyed.setKeyWord 4 0).schedValid = false ∧
      (∀ j < 16, keyed.keyByte j = (keyed.setKeyWord 4 0).keyByte j) ∧
      keyed.keyByte 16 ≠ (keyed.setKeyWord 4 0).keyByte 16 := by decide +kernel

theorem witness_derive_next :
    exec (.derive 16) keyed = .next (after (.derive 16) keyed) ∧
      exec (.derive 16) (keyed.setKeyWord 4 0) = .next (after (.derive 16) (keyed.setKeyWord 4 0)) :=
  ⟨exec_after .., exec_after ..⟩

/-- DecbUndoesEncb, EndRoundKeys, PrimitiveSequencesMatchTheCipher: a context, on the hardware path. -/
theorem witness_context : derived.contextOk ∧ derived.schedValid = true ∧ derived.hwpath = true := by
  refine ⟨?_, by decide +kernel, by decide +kernel⟩
  rw [State.contextOk, if_pos (by decide +kernel)]
  exact ⟨by decide +kernel, by decide +kernel, by decide +kernel, by decide +kernel⟩

/-- PathsAreEquivalent: a command on both paths, with a next state. -/
theorem witness_paths :
    (Instr.vldrk 0 .ek 0).primitive = false ∧
      exec (.vldrk 0 .ek 0) derived = .next (after (.vldrk 0 .ek 0) derived) :=
  ⟨rfl, exec_after ..⟩

/-- PrimitivesNeedTheHardwarePath: the six, and a state on each path. -/
theorem witness_primitives :
    (∀ i ∈ [Instr.aesenc 0 0 1, .aesenclast 7 0 1, .aesdec 0 7 1, .aesdeclast 0 0 7, .aesimc 7 0,
      .aeskeygenassist 0 7 0xFF], i.primitive = true) ∧
      (onPath false).hwpath = false ∧ (onPath true).hwpath = true := by decide +kernel

/-- VldrkCommand: the three clauses at an index either side of NR. -/
theorem witness_vldrk :
    ¬(onPath true).schedValid ∧ derived.schedValid = true ∧ derived.nr.toNat < 11 ∧
      ¬derived.nr.toNat < 10 := by decide +kernel

/-- PayloadLiesInThePacket: the payload offset at its ends, and where the last block and the packet end. -/
theorem witness_payload :
    ((onPath true).setMem (packet 0x90 255)).poff = 4 ∧
      ((onPath true).setMem (packet 0xA0 255)).poff = 260 ∧
      ((onPath true).setMem (packet 0xB0 167)).nblk = 1 ∧
      ((onPath true).setMem (packet 0xB0 168)).nblk = 0 ∧
      ((onPath true).setMem (packet 0xB0 182)).poff = 187 ∧
      ((onPath true).setMem (packet 0xB0 183)).poff = 188 := by decide +kernel

/-- PktdecDecryptsPayload, PktdecNeverFailsPastSync, SecondPktdecSkips, PktdecDoesNotChain (with this state twice, or with the one whose block stands
elsewhere): a scrambled packet of one block, under a context. -/
theorem witness_scrambled :
    scrambled.mem.wf ∧ scrambled.mem.pktByte 0 = 0x47 ∧
      (scrambled.mem.pktByte 3).getLsbD 7 = true ∧ scrambled.schedValid = true ∧
      scrambled.nblk = 1 := by decide +kernel

theorem witness_pktdec_next : exec .pktdec scrambled = .next (after .pktdec scrambled) :=
  exec_after ..

/-- PktdecDoesNotChain: another packet, its one block at PKT[172..187], the same block. -/
theorem witness_other_packet :
    let s := derived.setMem
      ((packet 0xF0 167).setPktBlock 172 (blk 0x69c4e0d86a7b0430d8cdb78070b4c55a))
    s.mem.wf ∧ s.mem.pktByte 0 = 0x47 ∧ (s.mem.pktByte 3).getLsbD 7 = true ∧ s.nblk = 1 ∧
      s.mem.pktBlock (s.poff + 16 * 0) = scrambled.mem.pktBlock (scrambled.poff + 16 * 0) := by
  decide +kernel

/-- PktchkReadsTheHeaderAlone: two packets with the same bytes 0, 3 and 4, and different others. -/
theorem witness_same_header :
    let s := (onPath true).setMem (packet 0xB0 10)
    let s' := (onPath true).setMem ((packet 0xB0 10).setPktByte 1 0x1F)
    s.mem.pktByte 0 = s'.mem.pktByte 0 ∧ s.mem.pktByte 3 = s'.mem.pktByte 3 ∧
      s.mem.pktByte 4 = s'.mem.pktByte 4 ∧ s.mem.pktByte 1 ≠ s'.mem.pktByte 1 := by decide +kernel

/-- RoundKeysAboveNrAreNotRead: a schedule that differs in slot 14, above NR = 10. -/
theorem witness_round_keys_above :
    (∀ r ≤ derived.nr.toNat, slot (derived.ek.set 14 1) r = derived.ekAt r ∧
      slot (derived.dk.set 14 1) r = derived.dkAt r) ∧ derived.ekAt 14 ≠ 1 := by decide +kernel

/-- ReadsHaveNoSideEffect: the last word of the window. -/
theorem witness_read :
    hostAccess (.read 4 0x3FC) (onPath true) = .next { onPath true with returned := [0] } := rfl

/-- PktdecWithoutDecryption, PktchkCommand: a state for each clause. -/
theorem witness_no_decryption :
    (onPath true).mem.pktByte 0 ≠ 0x47 ∧
      ((packet 0x70 255).pktByte 0 = 0x47 ∧ ((packet 0x70 255).pktByte 3).getLsbD 7 = false) ∧
      (packet 0xD0 0).pktByte 0 = 0x47 ∧ ((packet 0xD0 0).pktByte 3).getLsbD 7 = true ∧
      (onPath true).schedValid = false := by decide +kernel

/-- ResultLayout: every field at its largest. -/
theorem witness_result :
    packResult true true true true 3 511 15 = 0x00F1FF3F ∧ 511 < 512 ∧ 15 < 16 := by decide +kernel

/-- RaisingWritesOnlyTheCode, ErrChangesOnlyAtCompletion: a command in flight that raises. -/
theorem witness_raise :
    (flying 0x02).inflight = some 0x02 ∧ EngineNext (flying 0x02) ∧
      step (flying 0x02) = .next { onPath true with err := .noSchedule } :=
  ⟨rfl, .inl rfl, rfl⟩

/-- AccessesOutsideTheInterface: an access for each clause, at its boundary. -/
theorem witness_outside :
    (5 : Nat) ≠ 4 ∧ 0x3FF % 4 ≠ 0 ∧ (0x400 % 4 = 0 ∧ 0x400 ≤ 0x400) ∧
      (0x3FC % 4 = 0 ∧ 0x3FC < 0x400 ∧ (flying 4).busy = true ∧ 0x3FC ≠ 0x004) ∧
      (given [.secondHost (.read 4 4)] (onPath true)).inputs = [.secondHost (.read 4 4)] := by
  decide +kernel

/-- WrittenWordReadsBack, ReadsHaveNoSideEffect: the first and the last word of V and of PKT, by register and word. -/
theorem witness_words :
    0x100 + 16 * (0 : VReg).val + 4 * 0 = 0x100 ∧ 0x100 + 16 * (7 : VReg).val + 4 * 3 = 0x17C ∧
      0x200 + 4 * 0 = 0x200 ∧ 0x200 + 4 * 46 = 0x2B8 ∧ 3 < 4 ∧ 46 < 47 ∧
      (onPath true).busy = false := by decide

/-- WrittenWordReadsBack, KeyIsWriteOnlyAndFrozen, CmdWriteIssues, ReservedOffsetsReadZero: an idle block, and the first and
last word of each range. -/
theorem witness_window :
    (onPath true).mem.wf ∧ (onPath true).busy = false ∧ derived.busy = false ∧
      (∀ off ∈ [0x100, 0x17C, 0x200, 0x2B8], off % 4 = 0 ∧
        ((0x100 ≤ off ∧ off ≤ 0x17C) ∨ (0x200 ≤ off ∧ off ≤ 0x2B8))) ∧
      (∀ off ∈ [0x010, 0x03C, 0x060, 0x0FC, 0x180, 0x1FC, 0x2BC, 0x3FC],
        derived.windowRead off = 0 ∧ off % 4 = 0) := by decide +kernel

/-- WindowStandsAtBase: an access next, at its offset and on the bus (the bus case is `witness_packet_write_bus`). -/
theorem witness_access_step :
    (given [wr 0x100 1, .engine] (onPath true)).inputs = wr 0x100 1 :: [.engine] ∧
      step (given [wr 0x100 1, .engine] (onPath true)) =
        .next (given [.engine] ((onPath true).windowWrite 0x100 1)) := ⟨rfl, rfl⟩

/-- WindowStandsAtBase: an address below BASE exists where BASE is not 0, and the clause is empty where it is. -/
theorem witness_base (h : Config.base ≠ 0) : 0 < Config.base := Nat.pos_of_ne_zero h

/-- ResetGivesTheResetValues, CapIsLatched: a reset while a command is in flight. -/
theorem witness_reset :
    (given [.reset] (flying 0x10000001)).inputs = [.reset] ∧
      step (given [.reset] (flying 0x10000001)) = .next State.reset := ⟨rfl, rfl⟩

/-- StatusReadWhileBusy. -/
theorem witness_busy_read : memRead 4 0x004 (flying 4) = .next 1 := rfl

/-- StepRunsTheDecodedCommand: by the engine's turn given, and by no input left. -/
theorem witness_step_runs :
    EngineNext (given [.engine] (flying 0x04)) ∧ EngineNext (flying 0x04) ∧
      decode 0x04#32 = some .zeroize ∧
      exec .zeroize (given [] (flying 0x04)) = .next (after .zeroize (given [] (flying 0x04))) :=
  ⟨.inr rfl, .inl rfl, rfl, exec_after ..⟩

/-- StepRunsTheDecodedCommand: an illegal word in flight, with the engine's turn given and with no input left. -/
theorem witness_step_illegal :
    EngineNext (given [.engine, rd 0x004] (flying 0)) ∧ decode 0#32 = none ∧
      step (given [.engine, rd 0x004] (flying 0)) =
        .next (given [rd 0x004] { onPath true with err := .illegal }) ∧
      step (flying 0) = .next { onPath true with err := .illegal } := ⟨.inr rfl, rfl, rfl, rfl⟩

/-- IdleBlockKeepsItsState. -/
theorem witness_idle :
    EngineNext (given [.engine] (onPath true)) ∧ (given [.engine] (onPath true)).inflight = none ∧
      step (given [.engine] (onPath true)) = .next (onPath true) := ⟨.inr rfl, rfl, rfl⟩

/-- PollingTerminates: two polls before the engine's turn. -/
theorem witness_polling :
    ∀ i ∈ (given [rd 0x004, rd 0x004, .engine, rd 0x004] (flying 0x04)).inputs, i.polling = true := by
  decide +kernel

/-- StepKeepsTheInvariant: a state with a context, in canonical form, whose next step answers. -/
theorem witness_inv :
    (derived.issue 0x04).Inv ∧ step (derived.issue 0x04) = .next (stepped (derived.issue 0x04)) :=
  ⟨⟨witness_context.1, .inl (by decide +kernel), by decide +kernel, by decide +kernel⟩,
    step_stepped (by decide +kernel)⟩

/-- ContextIsImmutable: its second clause, a context that comes to be. -/
theorem witness_context_created :
    (keyed.issue 0x10000001).schedValid = false ∧
      (stepped (keyed.issue 0x10000001)).schedValid = true ∧
      step (keyed.issue 0x10000001) = .next (stepped (keyed.issue 0x10000001)) :=
  ⟨by decide +kernel, by decide +kernel, step_stepped (by decide +kernel)⟩

/-- ObservationIsTheWholeState: two states that differ only in what the host has read. -/
theorem witness_observation :
    let t := { derived with returned := [1] }
    derived.bufferOk ∧ t.bufferOk ∧ derived.ended = true ∧ t.ended = true ∧
      derived.observation = t.observation :=
  ⟨⟨by decide +kernel, by decide +kernel⟩, ⟨by decide +kernel, by decide +kernel⟩, rfl, rfl, rfl⟩

/-- PacketStateWriters: a host's write of the last PKT word, at its offset and on the platform's bus. -/
theorem witness_packet_write_bus :
    step (given [.bus (.write 4 (Config.base + 0x2B8) 0xAABBCCDD)] (onPath true)) =
      .next ((onPath true).windowWrite 0x2B8 0xAABBCCDD) := by
  have h : ¬Config.base + 0x2B8 < Config.base := by omega
  show busAccess (.write 4 (Config.base + 0x2B8) 0xAABBCCDD) (onPath true) = _
  rw [busAccess, if_neg h, Nat.add_sub_cancel_left]
  rfl

theorem witness_packet_write :
    step (given [wr 0x2B8 0xAABBCCDD] (onPath true)) =
      .next ((onPath true).windowWrite 0x2B8 0xAABBCCDD) ∧ inPkt 0x2B8 = true := ⟨rfl, rfl⟩

end Sys2Proof.Tests
end

section
/-! The bits of STATUS and RESULT (R35, R38): which field stands at each place of the two words, and
the fields read back. -/

namespace Sys2Proof.Machine

/-! ### One field of a word -/

theorem getLsbD_bitWord (b : Bool) (i : Nat) : (bitWord b).getLsbD i = (decide (i = 0) && b) := by
  cases b <;> simp [bitWord]

/-- A one-bit field at the place `k` of a word. -/
theorem getLsbD_bitWord_shiftLeft (b : Bool) {k : Nat} (hk : k < 32) (i : Nat) :
    (bitWord b <<< k).getLsbD i = (decide (i = k) && b) := by
  rw [BitVec.getLsbD_shiftLeft, getLsbD_bitWord]
  by_cases h : i = k
  · simp [h, hk]
  · have : i < k ∨ i - k ≠ 0 := by omega
    rcases this with h' | h' <;> simp [h, h']

/-- A field of `n` bits from the place `k` of a word on. -/
theorem getLsbD_field {n : Nat} (b : BitVec n) {k : Nat} (hk : k + n ≤ 32) (i : Nat) :
    (b.setWidth 32 <<< k).getLsbD i = (decide (k ≤ i ∧ i < k + n) && b.getLsbD (i - k)) := by
  rw [BitVec.getLsbD_shiftLeft, BitVec.getLsbD_setWidth]
  by_cases h : k ≤ i ∧ i < k + n
  · have h32 : i < 32 ∧ ¬i < k ∧ i - k < 32 := by omega
    simp [h, h32]
  · have h' : i < k ∨ n ≤ i - k := by omega
    rcases h' with h' | h'
    · simp [h, h']
    · simp [h, BitVec.getLsbD_of_ge _ _ h']

/-- A number put into a word is the number put into a field that holds it. -/
theorem ofNat_eq_setWidth {x n : Nat} (hx : x < 2 ^ n) :
    BitVec.ofNat 32 x = (BitVec.ofNat n x).setWidth 32 := by
  refine BitVec.eq_of_toNat_eq ?_
  rw [BitVec.toNat_setWidth, BitVec.toNat_ofNat, BitVec.toNat_ofNat, Nat.mod_eq_of_lt hx]

/-- A field read back, bit by bit. -/
theorem extractLsb'_eq_of_bits {w : Word} {k n : Nat} {b : BitVec n}
    (h : ∀ i < n, w.getLsbD (k + i) = b.getLsbD i) : w.extractLsb' k n = b :=
  BitVec.eq_of_getLsbD_eq fun i hi => by
    rw [BitVec.getLsbD_extractLsb', decide_eq_true hi, Bool.true_and, h i hi]

/-! ### STATUS -/

/-- R35: the bits of STATUS, lowest field first. -/
theorem getLsbD_statusWord (s : State) (i : Nat) :
    s.statusWord.getLsbD i =
      ((decide (i = 0) && s.busy) || (decide (i = 1) && s.schedValid) ||
        (decide (4 ≤ i ∧ i < 8) && (errNumber s.err).getLsbD (i - 4)) ||
        (decide (8 ≤ i ∧ i < 16) && s.nr.getLsbD (i - 8)) ||
        (decide (16 ≤ i ∧ i < 24) && s.klen.getLsbD (i - 16))) := by
  simp (disch := decide) only [State.statusWord, BitVec.getLsbD_or, getLsbD_bitWord,
    getLsbD_bitWord_shiftLeft, getLsbD_field]

theorem statusWord_busy (s : State) : s.statusWord.getLsbD 0 = s.inflight.isSome := by
  rw [getLsbD_statusWord]
  simp [State.busy]

theorem statusWord_schedValid (s : State) : s.statusWord.getLsbD 1 = s.schedValid := by
  rw [getLsbD_statusWord]
  simp

theorem statusWord_err (s : State) : s.statusWord.extractLsb' 4 4 = errNumber s.err :=
  extractLsb'_eq_of_bits fun i hi => by
    rw [getLsbD_statusWord]
    simp (disch := omega) only [decide_eq_true, decide_eq_false, Bool.true_and, Bool.false_and,
      Bool.or_false, Bool.false_or, Nat.add_sub_cancel_left]

theorem statusWord_nr (s : State) : s.statusWord.extractLsb' 8 8 = s.nr :=
  extractLsb'_eq_of_bits fun i hi => by
    rw [getLsbD_statusWord]
    simp (disch := omega) only [decide_eq_true, decide_eq_false, Bool.true_and, Bool.false_and,
      Bool.or_false, Bool.false_or, Nat.add_sub_cancel_left]

theorem statusWord_klen (s : State) : s.statusWord.extractLsb' 16 8 = s.klen :=
  extractLsb'_eq_of_bits fun i hi => by
    rw [getLsbD_statusWord]
    simp (disch := omega) only [decide_eq_true, decide_eq_false, Bool.true_and, Bool.false_and,
      Bool.or_false, Bool.false_or, Nat.add_sub_cancel_left]

theorem statusWord_reserved_low (s : State) : s.statusWord.extractLsb' 2 2 = 0#2 :=
  extractLsb'_eq_of_bits fun i hi => by
    rw [getLsbD_statusWord, BitVec.getLsbD_zero]
    simp (disch := omega) only [decide_eq_false, Bool.false_and, Bool.or_false]

theorem statusWord_reserved_high (s : State) : s.statusWord.extractLsb' 24 8 = 0#8 :=
  extractLsb'_eq_of_bits fun i hi => by
    rw [getLsbD_statusWord, BitVec.getLsbD_zero]
    simp (disch := omega) only [decide_eq_false, Bool.false_and, Bool.or_false]

/-! ### RESULT -/

section Pack
variable (sync scr proc afp : Bool) (sc : BitVec 2) {poff nblk : Nat}

/-- R38: the bits of RESULT, lowest field first, POFF and NBLK being in the range of their fields. -/
theorem getLsbD_packResult (hp : poff < 512) (hn : nblk < 16) (i : Nat) :
    (packResult sync scr proc afp sc poff nblk).getLsbD i =
      ((decide (i = 0) && sync) || (decide (i = 1) && scr) || (decide (i = 2) && proc) ||
        (decide (i = 3) && afp) || (decide (4 ≤ i ∧ i < 6) && sc.getLsbD (i - 4)) ||
        (decide (8 ≤ i ∧ i < 17) && (BitVec.ofNat 9 poff).getLsbD (i - 8)) ||
        (decide (20 ≤ i ∧ i < 24) && (BitVec.ofNat 4 nblk).getLsbD (i - 20))) := by
  rw [packResult, ofNat_eq_setWidth (n := 9) hp, ofNat_eq_setWidth (n := 4) hn]
  simp (disch := decide) only [BitVec.getLsbD_or, getLsbD_bitWord, getLsbD_bitWord_shiftLeft,
    getLsbD_field]

theorem resultSyncOk_packResult (hp : poff < 512) (hn : nblk < 16) :
    resultSyncOk (packResult sync scr proc afp sc poff nblk) = sync := by
  rw [resultSyncOk, getLsbD_packResult _ _ _ _ _ hp hn]
  simp

theorem resultScrambled_packResult (hp : poff < 512) (hn : nblk < 16) :
    resultScrambled (packResult sync scr proc afp sc poff nblk) = scr := by
  rw [resultScrambled, getLsbD_packResult _ _ _ _ _ hp hn]
  simp

theorem resultProcessed_packResult (hp : poff < 512) (hn : nblk < 16) :
    resultProcessed (packResult sync scr proc afp sc poff nblk) = proc := by
  rw [resultProcessed, getLsbD_packResult _ _ _ _ _ hp hn]
  simp

theorem resultAfp_packResult (hp : poff < 512) (hn : nblk < 16) :
    resultAfp (packResult sync scr proc afp sc poff nblk) = afp := by
  rw [resultAfp, getLsbD_packResult _ _ _ _ _ hp hn]
  simp

theorem resultSc_packResult (hp : poff < 512) (hn : nblk < 16) :
    resultSc (packResult sync scr proc afp sc poff nblk) = sc :=
  extractLsb'_eq_of_bits fun i hi => by
    rw [getLsbD_packResult _ _ _ _ _ hp hn]
    simp (disch := omega) only [decide_eq_true, decide_eq_false, Bool.true_and, Bool.false_and,
      Bool.or_false, Bool.false_or, Nat.add_sub_cancel_left]

theorem resultPoff_packResult (hp : poff < 512) (hn : nblk < 16) :
    resultPoff (packResult sync scr proc afp sc poff nblk) = poff := by
  have hfield :
      (packResult sync scr proc afp sc poff nblk).extractLsb' 8 9 = BitVec.ofNat 9 poff :=
    extractLsb'_eq_of_bits fun i hi => by
      rw [getLsbD_packResult _ _ _ _ _ hp hn]
      simp (disch := omega) only [decide_eq_true, decide_eq_false, Bool.true_and, Bool.false_and,
        Bool.or_false, Bool.false_or, Nat.add_sub_cancel_left]
  rw [resultPoff, hfield, BitVec.toNat_ofNat, Nat.mod_eq_of_lt hp]

theorem resultNblk_packResult (hp : poff < 512) (hn : nblk < 16) :
    resultNblk (packResult sync scr proc afp sc poff nblk) = nblk := by
  have hfield :
      (packResult sync scr proc afp sc poff nblk).extractLsb' 20 4 = BitVec.ofNat 4 nblk :=
    extractLsb'_eq_of_bits fun i hi => by
      rw [getLsbD_packResult _ _ _ _ _ hp hn]
      simp (disch := omega) only [decide_eq_true, decide_eq_false, Bool.true_and, Bool.false_and,
        Bool.or_false, Bool.false_or, Nat.add_sub_cancel_left]
  rw [resultNblk, hfield, BitVec.toNat_ofNat, Nat.mod_eq_of_lt hn]

/-- R38: the places of the reserved bits 7:6, 19:17 and 31:24. -/
theorem getLsbD_resultReservedMask :
    ∀ i < 32, (0xFF0E00C0#32).getLsbD i = decide ((6 ≤ i ∧ i < 8) ∨ (17 ≤ i ∧ i < 20) ∨ 24 ≤ i) := by
  decide

theorem resultReserved_packResult (hp : poff < 512) (hn : nblk < 16) :
    resultReserved (packResult sync scr proc afp sc poff nblk) = 0#32 := by
  refine BitVec.eq_of_getLsbD_eq fun i hi => ?_
  rw [resultReserved, BitVec.getLsbD_and, getLsbD_resultReservedMask i hi, BitVec.getLsbD_zero]
  by_cases hr : (6 ≤ i ∧ i < 8) ∨ (17 ≤ i ∧ i < 20) ∨ 24 ≤ i
  · rw [getLsbD_packResult _ _ _ _ _ hp hn]
    simp (disch := omega) only [decide_eq_false, Bool.false_and, Bool.or_false]
  · rw [decide_eq_false hr, Bool.and_false]

end Pack

/-! ### The layouts -/

/-- Settles O37, field by field. -/
theorem statusLayout : Obligations.StatusLayout :=
  ⟨rfl, fun s => ⟨statusWord_busy s, statusWord_schedValid s, statusWord_reserved_low s,
    statusWord_err s, statusWord_nr s, statusWord_klen s, statusWord_reserved_high s⟩⟩

/-- Settles O38, field by field. -/
theorem resultLayout : Obligations.ResultLayout :=
  fun sync scr proc afp sc _ _ hp hn =>
    ⟨resultSyncOk_packResult sync scr proc afp sc hp hn,
      resultScrambled_packResult sync scr proc afp sc hp hn,
      resultProcessed_packResult sync scr proc afp sc hp hn,
      resultAfp_packResult sync scr proc afp sc hp hn,
      resultSc_packResult sync scr proc afp sc hp hn,
      resultPoff_packResult sync scr proc afp sc hp hn,
      resultNblk_packResult sync scr proc afp sc hp hn,
      resultReserved_packResult sync scr proc afp sc hp hn⟩

end Sys2Proof.Machine
end

section
/-! What single moves of the machine change and leave (R36, R38, R41, R42): the host's write of the window, the
commands, the engine's turn, and whose turn a step is. -/

namespace Sys2Proof.Machine

/-! ### The host's write of the window -/

/-- R62, R67: no write of the window changes STATUS but for BUSY, nor RESULT. -/
theorem windowWrite_status (s : State) (off : Nat) (w : Word) :
    (s.windowWrite off w).err = s.err ∧ (s.windowWrite off w).schedValid = s.schedValid ∧
      (s.windowWrite off w).result = s.result := by
  rcases windowWrite_cases s off w with ⟨-, h⟩ | ⟨-, -, h⟩ | ⟨-, h⟩ | ⟨-, h⟩ | h <;> simp [h]

/-- R69: without a context a write may change KEY, but never the round keys or their sizes. -/
theorem windowWrite_schedule (s : State) (off : Nat) (w : Word) :
    (s.windowWrite off w).ek = s.ek ∧ (s.windowWrite off w).dk = s.dk ∧
      (s.windowWrite off w).nr = s.nr ∧ (s.windowWrite off w).klen = s.klen := by
  rcases windowWrite_cases s off w with ⟨-, h⟩ | ⟨-, -, h⟩ | ⟨-, h⟩ | ⟨-, h⟩ | h <;> simp [h]

/-- R69: under a context KEY is frozen. -/
theorem windowWrite_key {s : State} (hs : s.schedValid = true) (off : Nat) (w : Word) :
    (s.windowWrite off w).key = s.key := by
  rcases windowWrite_cases s off w with ⟨-, h⟩ | ⟨-, hk, -⟩ | ⟨-, h⟩ | ⟨-, h⟩ | h
  · simp [h]
  · exact absurd hs (by simp [hk])
  · simp [h]
  · simp [h]
  · simp [h]

theorem windowWrite_sameKeys {s : State} (hs : s.schedValid = true) (off : Nat) (w : Word) :
    SameKeys s (s.windowWrite off w) := by
  obtain ⟨hek, hdk, hnr, hklen⟩ := windowWrite_schedule s off w
  obtain ⟨-, hsv, -⟩ := windowWrite_status s off w
  exact ⟨windowWrite_key hs off w, hek, hdk, hnr, hklen, hsv⟩

/-- R62, R67: a write changes the packet buffer at a PKT offset only, and there stores the word's four bytes. -/
theorem windowWrite_mem (s : State) (off : Nat) (w : Word) :
    (s.windowWrite off w).mem = s.mem ∨
      (inPkt off = true ∧
        (s.windowWrite off w).mem = s.mem.setPktBytes (off - Config.pktOffset) (wordByte w) 4) := by
  rcases windowWrite_cases s off w with ⟨-, h⟩ | ⟨-, -, h⟩ | ⟨-, h⟩ | ⟨hp, h⟩ | h
  · exact .inl (by simp [h])
  · exact .inl (by simp [h])
  · exact .inl (by simp [h])
  · exact .inr ⟨hp, by simp [h]⟩
  · exact .inl (by simp [h])

/-! ### The commands -/

/-- What a command leaves that writes no more than ERR and one operand register. -/
def WritesAtMostV (s t : State) : Prop :=
  (∃ e, t = s.raise e) ∨ ∃ vd b, t = (s.writeV vd b).done

theorem writesAtMostV_primitive (s : State) (vd : VReg) (b : Block) :
    WritesAtMostV s (s.primitive vd b) := by
  unfold State.primitive
  split_ifs
  · exact .inr ⟨vd, b, rfl⟩
  · exact .inl ⟨_, rfl⟩

theorem writesAtMostV_encb {vd vs : VReg} {s t : State} (h : exec (.encb vd vs) s = .next t) :
    WritesAtMostV s t := by
  simp only [exec, execEncb, Host.Outcome.next.injEq] at h
  subst h
  split_ifs
  · exact .inl ⟨_, rfl⟩
  · exact .inr ⟨_, _, rfl⟩

theorem writesAtMostV_decb {vd vs : VReg} {s t : State} (h : exec (.decb vd vs) s = .next t) :
    WritesAtMostV s t := by
  simp only [exec, execDecb, Host.Outcome.next.injEq] at h
  subst h
  split_ifs
  · exact .inl ⟨_, rfl⟩
  · exact .inr ⟨_, _, rfl⟩

theorem writesAtMostV_vldrk {vd : VReg} {sel : RoundKeySel} {idx : Nat} {s t : State}
    (h : exec (.vldrk vd sel idx) s = .next t) : WritesAtMostV s t := by
  simp only [exec, execVldrk, Host.Outcome.next.injEq] at h
  subst h
  split_ifs
  · exact .inl ⟨_, rfl⟩
  · exact .inl ⟨_, rfl⟩
  · exact .inr ⟨_, _, rfl⟩

theorem WritesAtMostV.sameKeys {s t : State} (h : WritesAtMostV s t) : SameKeys s t := by
  rcases h with ⟨e, rfl⟩ | ⟨vd, b, rfl⟩ <;> exact ⟨rfl, rfl, rfl, rfl, rfl, rfl⟩

theorem WritesAtMostV.packet {s t : State} (h : WritesAtMostV s t) :
    t.result = s.result ∧ t.mem = s.mem := by
  rcases h with ⟨e, rfl⟩ | ⟨vd, b, rfl⟩ <;> exact ⟨rfl, rfl⟩

/-- R161: a DERIVE raises, or installs a context of a legal length where there was none. -/
theorem exec_derive_cases {klen : Nat} {s t : State} (h : exec (.derive klen) s = .next t) :
    WritesAtMostV s t ∨
      (validKlen klen = true ∧ s.schedValid = false ∧
        ∃ nr kl ek dk, t = (s.installContext nr kl ek dk).done) := by
  simp only [exec, execDerive, Host.Outcome.next.injEq] at h
  subst h
  split_ifs with hk hs
  · exact .inl (.inl ⟨_, rfl⟩)
  · exact .inl (.inl ⟨_, rfl⟩)
  · exact .inr ⟨by simpa using hk, by simpa using hs, _, _, _, _, rfl⟩

/-- R213: PKTDEC writes the packet buffer, RESULT and ERR alone. -/
theorem exec_pktdec_cases {s t : State} (h : exec .pktdec s = .next t) :
    ∃ m r e, t = ((s.setMem m).setResult r).raise e := by
  simp only [exec, execPktdec, Host.Outcome.next.injEq] at h
  subst h
  split_ifs
  · exact ⟨s.mem, _, _, rfl⟩
  · exact ⟨s.mem, _, .ok, rfl⟩
  · exact ⟨s.mem, _, _, rfl⟩
  · exact ⟨_, _, .ok, rfl⟩

/-- R214: PKTCHK writes RESULT and ERR alone. -/
theorem exec_pktchk_cases {s t : State} (h : exec .pktchk s = .next t) :
    ∃ r e, t = (s.setResult r).raise e := by
  simp only [exec, execPktchk, Host.Outcome.next.injEq] at h
  subst h
  split_ifs
  · exact ⟨_, _, rfl⟩
  · exact ⟨_, .ok, rfl⟩

/-- Which command writes what: only DERIVE, ZEROIZE, PKTDEC and PKTCHK write more than ERR and one operand register. -/
theorem exec_cases {i : Instr} {s t : State} (h : exec i s = .next t) :
    WritesAtMostV s t ∨
      (∃ klen, i = .derive klen ∧ validKlen klen = true ∧ s.schedValid = false ∧
        ∃ nr kl ek dk, t = (s.installContext nr kl ek dk).done) ∨
      (i = .zeroize ∧ t = s.eraseKeys.done) ∨
      (i = .pktdec ∧ ∃ m r e, t = ((s.setMem m).setResult r).raise e) ∨
      (i = .pktchk ∧ ∃ r e, t = (s.setResult r).raise e) := by
  cases i with
  | derive klen => exact (exec_derive_cases h).imp_right fun hd => .inl ⟨klen, rfl, hd⟩
  | encb vd vs => exact .inl (writesAtMostV_encb h)
  | decb vd vs => exact .inl (writesAtMostV_decb h)
  | zeroize => cases h; exact .inr (.inr (.inl ⟨rfl, rfl⟩))
  | pktdec => exact .inr (.inr (.inr (.inl ⟨rfl, exec_pktdec_cases h⟩)))
  | pktchk => exact .inr (.inr (.inr (.inr ⟨rfl, exec_pktchk_cases h⟩)))
  | aesenc vd vs1 vs2 => cases h; exact .inl (writesAtMostV_primitive ..)
  | aesenclast vd vs1 vs2 => cases h; exact .inl (writesAtMostV_primitive ..)
  | aesdec vd vs1 vs2 => cases h; exact .inl (writesAtMostV_primitive ..)
  | aesdeclast vd vs1 vs2 => cases h; exact .inl (writesAtMostV_primitive ..)
  | aesimc vd vs => cases h; exact .inl (writesAtMostV_primitive ..)
  | aeskeygenassist vd vs rcon => cases h; exact .inl (writesAtMostV_primitive ..)
  | vxor vd vs1 vs2 => cases h; exact .inl (.inr ⟨_, _, rfl⟩)
  | vldrk vd sel idx => exact .inl (writesAtMostV_vldrk h)

/-- R41: the commands that write KEY or the cipher context. -/
theorem exec_keys {i : Instr} {s t : State} (h : exec i s = .next t) :
    SameKeys s t ∨ (i = .zeroize ∧ t.schedValid = false) ∨
      (s.schedValid = false ∧ ∃ klen, i = .derive klen ∧ validKlen klen = true) := by
  rcases exec_cases h with
    hv | ⟨klen, hi, hk, hs, -⟩ | ⟨hi, rfl⟩ | ⟨-, m, r, e, rfl⟩ | ⟨-, r, e, rfl⟩
  · exact .inl hv.sameKeys
  · exact .inr (.inr ⟨hs, klen, hi, hk⟩)
  · exact .inr (.inl ⟨hi, rfl⟩)
  · exact .inl ⟨rfl, rfl, rfl, rfl, rfl, rfl⟩
  · exact .inl ⟨rfl, rfl, rfl, rfl, rfl, rfl⟩

/-- R38, R42: the commands that write RESULT, and the one that writes PKT. -/
theorem exec_packet {i : Instr} {s t : State} (h : exec i s = .next t) :
    (t.result = s.result ∨ i = .pktdec ∨ i = .pktchk) ∧ (t.mem = s.mem ∨ i = .pktdec) := by
  rcases exec_cases h with
    hv | ⟨klen, -, -, -, nr, kl, ek, dk, rfl⟩ | ⟨-, rfl⟩ | ⟨hi, -⟩ | ⟨hi, r, e, rfl⟩
  · obtain ⟨hresult, hmem⟩ := hv.packet
    exact ⟨.inl hresult, .inl hmem⟩
  · exact ⟨.inl rfl, .inl rfl⟩
  · exact ⟨.inl rfl, .inl rfl⟩
  · exact ⟨.inr (.inl hi), .inr hi⟩
  · exact ⟨.inr (.inr hi), .inl rfl⟩

/-! ### The engine's turn -/

/-- R285: an engine's turn that answers is idle, an illegal word's, or a command's. -/
theorem engineStep_eq_next {u t : State} (h : engineStep u = .next t) :
    (u.inflight = none ∧ t = u) ∨
      (∃ w, u.inflight = some w ∧ decode w = none ∧ t = (u.raise .illegal).retire) ∨
      ∃ w i r, u.inflight = some w ∧ decode w = some i ∧ exec i u = .next r ∧ t = r.retire := by
  rcases engineStep_cases u with ⟨hn, he⟩ | ⟨w, hw, hd, he⟩ | ⟨w, i, r, hw, hd, hr, he⟩ <;>
    rw [he] at h <;> cases h
  · exact .inl ⟨hn, rfl⟩
  · exact .inr (.inl ⟨w, hw, hd, rfl⟩)
  · exact .inr (.inr ⟨w, i, r, hw, hd, hr, rfl⟩)

/-- R285: an engine's turn changes nothing, or completes the command in flight. -/
theorem engineStep_completes {u t : State} (h : engineStep u = .next t) :
    t = u ∨ (u.inflight.isSome = true ∧ t.inflight = none) := by
  rcases engineStep_eq_next h with ⟨-, ht⟩ | ⟨w, hw, -, rfl⟩ | ⟨w, i, r, hw, -, -, rfl⟩
  · exact .inl ht
  · exact .inr ⟨by rw [hw]; rfl, rfl⟩
  · exact .inr ⟨by rw [hw]; rfl, rfl⟩

theorem engineStep_keys {u t : State} (h : engineStep u = .next t) :
    SameKeys u t ∨
      (t.schedValid = false ∧ ∃ w, u.inflight = some w ∧ decode w = some .zeroize) ∨
      (u.schedValid = false ∧
        ∃ w klen, u.inflight = some w ∧ decode w = some (.derive klen) ∧ validKlen klen = true) := by
  rcases engineStep_eq_next h with ⟨-, rfl⟩ | ⟨w, hw, -, rfl⟩ | ⟨w, i, r, hw, hd, hr, rfl⟩
  · exact .inl ⟨rfl, rfl, rfl, rfl, rfl, rfl⟩
  · exact .inl ⟨rfl, rfl, rfl, rfl, rfl, rfl⟩
  · rcases exec_keys hr with hk | ⟨rfl, hs⟩ | ⟨hs, klen, rfl, hk⟩
    · exact .inl hk
    · exact .inr (.inl ⟨hs, w, hw, hd⟩)
    · exact .inr (.inr ⟨hs, w, klen, hw, hd, hk⟩)

theorem engineStep_packet {u t : State} (h : engineStep u = .next t) :
    (t.result = u.result ∨
      ∃ w, u.inflight = some w ∧ (decode w = some .pktdec ∨ decode w = some .pktchk)) ∧
    (t.mem = u.mem ∨ ∃ w, u.inflight = some w ∧ decode w = some .pktdec) := by
  rcases engineStep_eq_next h with ⟨-, rfl⟩ | ⟨w, hw, -, rfl⟩ | ⟨w, i, r, hw, hd, hr, rfl⟩
  · exact ⟨.inl rfl, .inl rfl⟩
  · exact ⟨.inl rfl, .inl rfl⟩
  · obtain ⟨hresult, hmem⟩ := exec_packet hr
    refine ⟨hresult.imp_right ?_, hmem.imp_right ?_⟩
    · rintro (rfl | rfl)
      · exact ⟨w, hw, .inl hd⟩
      · exact ⟨w, hw, .inr hd⟩
    · rintro rfl
      exact ⟨w, hw, hd⟩

/-! ### The host's move -/

/-- R36, R38: the host writes neither ERR, nor SCHED_VALID, nor RESULT. -/
theorem hostAccess_status {a : Access} {u t : State} (h : hostAccess a u = .next t) :
    t.err = u.err ∧ t.schedValid = u.schedValid ∧ t.result = u.result := by
  rcases hostAccess_cases h with ⟨w, rfl⟩ | ⟨-, off, w, rfl⟩
  · exact ⟨rfl, rfl, rfl⟩
  · exact windowWrite_status u off w

/-- R41, R69: the host changes neither KEY nor the context while there is one. -/
theorem hostAccess_sameKeys {a : Access} {u t : State} (h : hostAccess a u = .next t)
    (hs : u.schedValid = true) : SameKeys u t := by
  rcases hostAccess_cases h with ⟨w, rfl⟩ | ⟨-, off, w, rfl⟩
  · exact ⟨rfl, rfl, rfl, rfl, rfl, rfl⟩
  · exact windowWrite_sameKeys hs off w

/-- R42: the host changes PKT by the write of a word at a PKT offset alone, with no command in flight. -/
theorem hostAccess_mem {a : Access} {u t : State} (h : hostAccess a u = .next t) :
    t.mem = u.mem ∨
      (u.inflight = none ∧ ∃ off w, inPkt off = true ∧ a = .write 4 off w ∧
        t = u.windowWrite off w) := by
  cases a with
  | read width off =>
    obtain ⟨w, -, rfl⟩ := mapNext_eq_next.mp h
    exact .inl rfl
  | write width off w =>
    obtain ⟨rfl, -, -, hb, rfl⟩ := memWrite_eq_next.mp h
    refine (windowWrite_mem u off w).imp_right fun ⟨hp, _⟩ => ⟨?_, off, w, hp, rfl, rfl⟩
    simpa [State.busy] using hb

/-! ### Whose turn a step is -/

/-- R60: the access as the platform's bus carries it, at its address. -/
def Access.onBus : Access → Access
  | .read width off => .read width (Config.base + off)
  | .write width off w => .write width (Config.base + off) w

/-- R60: a bus access that answers stands at an offset from BASE. -/
theorem busAccess_eq_next {a : Access} {s t : State} (h : busAccess a s = .next t) :
    ∃ a' : Access, a = a'.onBus ∧ hostAccess a' s = .next t := by
  cases a with
  | read width addr =>
    simp only [busAccess] at h
    split_ifs at h with hb
    exact ⟨_, by rw [Access.onBus, Nat.add_sub_cancel' (not_lt.mp hb)], h⟩
  | write width addr w =>
    simp only [busAccess] at h
    split_ifs at h with hb
    exact ⟨_, by rw [Access.onBus, Nat.add_sub_cancel' (not_lt.mp hb)], h⟩

/-- Where a step is neither the engine's nor a reset, it is the host's access that stands first among the inputs. -/
theorem step_host {s t : State} (h : step s = .next t) (he : ¬EngineNext s)
    (hr : s.inputs.head? ≠ some .reset) :
    ∃ a : Access,
      (s.inputs.head? = some (.access a) ∨ s.inputs.head? = some (.bus a.onBus)) ∧
        hostAccess a (s.setInputs s.inputs.tail) = .next t := by
  cases hi : s.inputs with
  | nil => exact absurd (.inl hi) he
  | cons i is =>
    rw [step_cons hi] at h
    rw [List.tail_cons, List.head?_cons]
    cases i with
    | access a => exact ⟨a, .inl rfl, h⟩
    | bus a =>
      obtain ⟨a', rfl, h'⟩ := busAccess_eq_next h
      exact ⟨a', .inr rfl, h'⟩
    | secondHost a => cases h
    | engine => exact absurd (.inr (by rw [hi]; rfl)) he
    | reset => exact absurd (by rw [hi]; rfl) hr

/-- A step is the engine's turn, a reset, or the host's access that stands first among the inputs. -/
theorem step_cases {s t : State} (h : step s = .next t) :
    (EngineNext s ∧ engineStep (s.setInputs s.inputs.tail) = .next t) ∨
      (s.inputs.head? = some .reset ∧ t = (s.setInputs s.inputs.tail).resetBlock) ∨
      ∃ a : Access,
        (s.inputs.head? = some (.access a) ∨ s.inputs.head? = some (.bus a.onBus)) ∧
          hostAccess a (s.setInputs s.inputs.tail) = .next t := by
  by_cases he : EngineNext s
  · exact .inl ⟨he, step_engine he ▸ h⟩
  · by_cases hr : s.inputs.head? = some .reset
    · rcases step_turn h with ⟨he', -⟩ | hreset | ⟨hr', -⟩
      · exact absurd he' he
      · exact .inr (.inl hreset)
      · exact absurd hr hr'
    · exact .inr (.inr (step_host h he hr))

end Sys2Proof.Machine
end

section
/-! Who writes ERR, the cipher context, RESULT and PKT (R36, R38, R41, R42), over every step. -/

namespace Sys2Proof.Machine

/-- Settles O41, by whose turn the step is. -/
theorem errChangesOnlyAtCompletion : Obligations.ErrChangesOnlyAtCompletion := by
  intro s t h
  rcases step_cases h with ⟨he, h⟩ | ⟨hr, -⟩ | ⟨a, -, h⟩
  · rcases engineStep_completes h with rfl | ⟨hs, hn⟩
    · exact .inl rfl
    · exact .inr (.inl ⟨he, hs, hn⟩)
  · exact .inr (.inr hr)
  · obtain ⟨herr, -, -⟩ := hostAccess_status h
    exact .inl herr

/-- Settles O58, by whose turn the step is. -/
theorem contextIsImmutable : Obligations.ContextIsImmutable := by
  intro s t h
  rcases step_cases h with ⟨he, h⟩ | ⟨hr, rfl⟩ | ⟨a, -, h⟩
  · rcases engineStep_keys h with hk | ⟨ht, w, hw, hd⟩ | ⟨hs, w, klen, hw, hd, hk⟩
    · have ⟨_, _, _, _, _, hsv⟩ := hk
      exact ⟨fun _ => .inl hk, fun hs ht => absurd (hsv.symm.trans ht) (by simp [hs])⟩
    · exact ⟨fun _ => .inr (.inr ⟨w, he, hw, hd⟩), fun _ ht' => absurd ht' (by simp [ht])⟩
    · exact ⟨fun hs' => absurd hs (by simp [hs']), fun _ _ => ⟨w, klen, he, hw, hd, hk⟩⟩
  · exact ⟨fun _ => .inr (.inl hr), fun _ ht => absurd ht (by simp [State.reset])⟩
  · obtain ⟨-, hsv, -⟩ := hostAccess_status h
    exact ⟨fun hs => .inl (hostAccess_sameKeys (u := s.setInputs s.inputs.tail) h hs),
      fun hs ht => absurd (hsv.symm.trans ht) (by simp [hs])⟩

/-- Equal data read the same at every offset. -/
theorem sameBuffer_of_mem_eq {s t : State} (h : t.mem = s.mem) : SameBuffer s t :=
  fun a => by rw [h]

/-- Settles O59, by whose turn the step is. -/
theorem packetStateWriters : Obligations.PacketStateWriters := by
  intro s t h
  rcases step_cases h with ⟨he, h⟩ | ⟨hr, -⟩ | ⟨a, ha, h⟩
  · obtain ⟨hresult, hmem⟩ := engineStep_packet h
    exact ⟨hresult.imp_right fun ⟨w, hw, hd⟩ => .inr ⟨w, he, hw, hd⟩,
      hmem.imp sameBuffer_of_mem_eq fun ⟨w, hw, hd⟩ => .inr (.inl ⟨w, he, hw, hd⟩)⟩
  · exact ⟨.inr (.inl hr), .inr (.inl hr)⟩
  · obtain ⟨-, -, hresult⟩ := hostAccess_status h
    refine ⟨.inl hresult, (hostAccess_mem h).imp sameBuffer_of_mem_eq ?_⟩
    rintro ⟨hn, off, w, hp, rfl, ht⟩
    exact .inr (.inr ⟨hn, off, w, hp, ha, ht⟩)

end Sys2Proof.Machine
end

section
/-! The invariant of the cipher context, RESULT and the packet buffer (R38 to R42, R46), part by part: it holds after
reset and every move of the machine keeps it. -/

namespace Sys2Proof.Machine

/-! ### What the parts of the invariant depend on -/

theorem contextOk_of_sameKeys {s t : State} (h : SameKeys s t) (hs : s.contextOk) : t.contextOk := by
  obtain ⟨hkey, hek, hdk, hnr, hklen, hsv⟩ := h
  have hbyte : t.keyByte = s.keyByte := funext fun j => by rw [State.keyByte, State.keyByte, hkey]
  rwa [State.contextOk, hbyte, hek, hdk, hnr, hklen, hsv]

theorem resultOk_of_eq {s t : State} (h : t.result = s.result) (hs : s.resultOk) : t.resultOk := by
  rwa [State.resultOk, h]

theorem bufferOk_of_eq {s t : State} (h : t.mem = s.mem) (hs : s.bufferOk) : t.bufferOk := by
  rwa [State.bufferOk, h]

/-! ### Reset -/

/-- R46: no context, and everything of one zero. -/
theorem contextOk_reset : State.reset.contextOk := ⟨rfl, rfl, rfl, rfl⟩

/-- Settles O56, part by part. -/
theorem resetMeetsTheInvariant : Obligations.ResetMeetsTheInvariant :=
  ⟨contextOk_reset, .inl rfl, wf_nil, fun _ hp => absurd hp List.not_mem_nil⟩

theorem resetBlock_inv (s : State) : s.resetBlock.Inv :=
  resetMeetsTheInvariant

/-- Settles O49, each piece of state by its own reading lemma: KEY and V are zero as ZEROIZE leaves them. -/
theorem resetGivesTheResetValues : Obligations.ResetGivesTheResetValues := by
  intro s is h
  exact ⟨(s.setInputs is).resetBlock, step_cons h, rfl, rfl, rfl, rfl, rfl, rfl, rfl, rfl,
    fun j _ => eraseKeys_keyByte s j, fun r _ => ⟨slot_zero r, slot_zero r⟩,
    fun n => eraseKeys_readV s n, fun _ _ => rfl⟩

/-! ### The cipher context -/

/-- R161: the context that a DERIVE of a legal length installs is that of the key in KEY. -/
theorem contextOk_installContext (s : State) {klen : Nat} (hk : validKlen klen = true) :
    (s.installContext (BitVec.ofNat 8 (klen / 4 + 6)) (BitVec.ofNat 8 klen)
      (encSlots s.keyByte klen) (decSlots s.keyByte klen)).contextOk := by
  have hlen : (BitVec.ofNat 8 klen).toNat = klen ∧
      (BitVec.ofNat 8 (klen / 4 + 6)).toNat = klen / 4 + 6 := by
    rcases (validKlen_iff klen).mp hk with rfl | rfl | rfl <;> exact ⟨rfl, rfl⟩
  obtain ⟨hklen, hnr⟩ := hlen
  rw [State.contextOk, if_pos (State.installContext_schedValid ..), State.installContext_klen,
    State.installContext_nr, hklen, hnr]
  exact ⟨hk, rfl, rfl, rfl⟩

/-- R213: the packet buffer and RESULT are no part of the context. -/
theorem sameKeys_packet (s : State) (m : Memory) (r : Word) :
    SameKeys s ((s.setMem m).setResult r).done := ⟨rfl, rfl, rfl, rfl, rfl, rfl⟩

/-- Every effect but a context derived and the keys erased leaves KEY and the context. -/
theorem Effect.contextOk {s t : State} (h : Effect s t) (hs : s.contextOk) : t.contextOk := by
  cases h with
  | raised e => exact contextOk_of_sameKeys ⟨rfl, rfl, rfl, rfl, rfl, rfl⟩ hs
  | moved vd b => exact contextOk_of_sameKeys ⟨rfl, rfl, rfl, rfl, rfl, rfl⟩ hs
  | derived klen hk _ =>
    exact contextOk_of_sameKeys ⟨rfl, rfl, rfl, rfl, rfl, rfl⟩ (contextOk_installContext s hk)
  | erased => exact ⟨rfl, rfl, rfl, rfl⟩
  | unsynced _ => exact contextOk_of_sameKeys ⟨rfl, rfl, rfl, rfl, rfl, rfl⟩ hs
  | reported e _ => exact contextOk_of_sameKeys ⟨rfl, rfl, rfl, rfl, rfl, rfl⟩ hs
  | decrypted _ _ _ => exact contextOk_of_sameKeys (sameKeys_packet ..) hs

/-- R69: a window write keeps the context: KEY may change only where there is none. -/
theorem windowWrite_contextOk {s : State} (hs : s.contextOk) (off : Nat) (w : Word) :
    (s.windowWrite off w).contextOk := by
  cases hv : s.schedValid with
  | true => exact contextOk_of_sameKeys (windowWrite_sameKeys hv off w) hs
  | false =>
    obtain ⟨hek, hdk, hnr, hklen⟩ := windowWrite_schedule s off w
    obtain ⟨-, hsv, -⟩ := windowWrite_status s off w
    simpa [State.contextOk, hv, hsv, hek, hdk, hnr, hklen] using hs

/-! ### RESULT -/

/-- R211: a packet of 188 bytes holds fewer than 16 whole blocks, so that NBLK fits its field. -/
theorem payloadBlocks_lt (poff : Nat) : payloadBlocks poff < 16 := by
  unfold payloadBlocks
  split_ifs
  · change (188 - poff) / 16 < 16
    omega
  · decide

/-- R213: the report of a packet is a consistent RESULT, where PROCESSED is claimed of a scrambled packet only. -/
theorem resultOk_of_pack {t : State} {m : Memory} {proc : Bool}
    (ht : t.result = (parseHeader m).pack proc)
    (hproc : proc = true → (parseHeader m).scrambled = true) : t.resultOk := by
  obtain ⟨hlow, hhigh⟩ := payloadOffset_bounds (parseHeader m).afp (m.pktByte 4)
  have hp : (parseHeader m).poff < 512 := hhigh.trans_lt (by decide)
  have hn : (parseHeader m).nblk < 16 := payloadBlocks_lt _
  have hpoff := resultPoff_packResult true (parseHeader m).scrambled proc (parseHeader m).afp
    (parseHeader m).sc hp hn
  rw [State.resultOk, ht]
  refine .inr ⟨resultSyncOk_packResult _ _ _ _ _ hp hn, resultReserved_packResult _ _ _ _ _ hp hn,
    hlow.trans_eq hpoff.symm, hpoff.trans_le hhigh, ?_, ?_, ?_⟩
  · exact (resultNblk_packResult _ _ _ _ _ hp hn).trans (congrArg payloadBlocks hpoff.symm)
  · exact (resultScrambled_packResult _ _ _ _ _ hp hn).trans
      (congrArg scrambledSc (resultSc_packResult _ _ _ _ _ hp hn).symm)
  · intro h
    exact (resultScrambled_packResult _ _ _ _ _ hp hn).trans
      (hproc ((resultProcessed_packResult _ _ _ _ _ hp hn).symm.trans h))

theorem Effect.resultOk {s t : State} (h : Effect s t) (hs : s.resultOk) : t.resultOk := by
  cases h with
  | raised e => exact hs
  | moved vd b => exact hs
  | derived klen _ _ => exact hs
  | erased => exact hs
  | unsynced _ => exact .inl rfl
  | reported e _ => exact resultOk_of_pack (m := s.mem) (proc := false) (by simp) (by simp)
  | decrypted _ hsc _ => exact resultOk_of_pack (m := s.mem) (proc := true) (by simp) fun _ => hsc

/-! ### The packet buffer -/

/-- R212: the payload's blocks lie in the packet, so that decrypting them stores nothing outside it. -/
theorem inPacket_payload {m : Memory} (hm : m.inPacket) (f : Block → Block) (poff : Nat) :
    (mapPayload f m poff (payloadBlocks poff)).inPacket := by
  unfold payloadBlocks
  split_ifs with h
  · refine inPacket_mapPayload hm f ?_
    simp only [Config.pktLen, Config.blockBytes] at h ⊢
    omega
  · exact hm

theorem Effect.bufferOk {s t : State} (h : Effect s t) (hs : s.bufferOk) : t.bufferOk := by
  cases h with
  | raised e => exact hs
  | moved vd b => exact hs
  | derived klen _ _ => exact hs
  | erased => exact hs
  | unsynced _ => exact hs
  | reported e _ => exact hs
  | decrypted _ _ _ =>
    obtain ⟨hwf, hin⟩ := hs
    exact ⟨wf_clearScrambling (wf_mapPayload hwf ..),
      inPacket_clearScrambling (inPacket_payload hin _ _)⟩

/-- R62: the four bytes of a PKT word lie in the packet. -/
theorem inPkt_word {off : Nat} (h : inPkt off = true) : off - Config.pktOffset + 4 ≤ Config.pktLen := by
  simp only [inPkt, decide_eq_true_eq] at h
  simp only [Config.pktOffset, Config.pktLen]
  omega

theorem windowWrite_bufferOk {s : State} (hs : s.bufferOk) (off : Nat) (w : Word) :
    (s.windowWrite off w).bufferOk := by
  rcases windowWrite_mem s off w with hm | ⟨hp, hm⟩
  · exact bufferOk_of_eq hm hs
  · obtain ⟨hwf, hin⟩ := hs
    rw [State.bufferOk, hm]
    exact ⟨wf_setPktBytes hwf .., inPacket_setPktBytes hin (inPkt_word hp) _⟩

/-! ### Every step -/

theorem Effect.inv {s t : State} (h : Effect s t) (hs : s.Inv) : t.Inv := by
  obtain ⟨hcontext, hresult, hbuffer⟩ := hs
  exact ⟨h.contextOk hcontext, h.resultOk hresult, h.bufferOk hbuffer⟩

theorem windowWrite_inv {s : State} (hs : s.Inv) (off : Nat) (w : Word) :
    (s.windowWrite off w).Inv := by
  obtain ⟨hcontext, hresult, hbuffer⟩ := hs
  obtain ⟨-, -, hr⟩ := windowWrite_status s off w
  exact ⟨windowWrite_contextOk hcontext off w, resultOk_of_eq hr hresult,
    windowWrite_bufferOk hbuffer off w⟩

theorem Move.inv {u t : State} (h : Move u t) (hu : u.Inv) : t.Inv := by
  cases h with
  | idle _ ht => exact ht ▸ hu
  | illegal w _ _ ht => exact ht ▸ hu
  | command w i r _ _ hr ht => exact ht ▸ (exec_effect hr).inv hu
  | read w ht => exact ht ▸ hu
  | write _ off w ht => exact ht ▸ windowWrite_inv hu off w
  | reset ht => exact ht ▸ resetBlock_inv u

/-- Settles O57, by the move that the step makes from the state less its input. -/
theorem stepKeepsTheInvariant : Obligations.StepKeepsTheInvariant :=
  fun _ _ hs h => (step_move h).inv hs

end Sys2Proof.Machine
end

section
/-! The words of the register window (R61 to R71): what each offset reads, what a write stores there and leaves, and the
window's place on the platform's bus. -/

namespace Sys2Proof.Machine

/-! ### Where the words stand -/

theorem inKey_iff {off : Nat} : inKey off = true ↔ 0x040 ≤ off ∧ off ≤ 0x05C := decide_eq_true_iff

theorem inV_iff {off : Nat} : inV off = true ↔ 0x100 ≤ off ∧ off ≤ 0x17C := decide_eq_true_iff

theorem inPkt_iff {off : Nat} : inPkt off = true ↔ 0x200 ≤ off ∧ off ≤ 0x2B8 := decide_eq_true_iff

theorem vWordIndex_lt (off : Nat) : vWordIndex off < 4 := by
  unfold vWordIndex
  omega

/-- R62, R66: an aligned offset in V's range is that of one word of one register. -/
theorem vOffset_index {off : Nat} (hv : inV off = true) (ha : off % 4 = 0) :
    0x100 + 16 * (vIndex off).val + 4 * vWordIndex off = off := by
  obtain ⟨hlow, hhigh⟩ := inV_iff.mp hv
  simp only [vIndex, vWordIndex, Fin.ofNat, Config.vOffset]
  omega

theorem inV_word (n : VReg) {k : Nat} (hk : k < 4) : inV (0x100 + 16 * n.val + 4 * k) = true := by
  have hn := n.isLt
  exact inV_iff.mpr ⟨by omega, by omega⟩

theorem inPkt_offset {k : Nat} (hk : k < 47) : inPkt (0x200 + 4 * k) = true :=
  inPkt_iff.mpr ⟨by omega, by omega⟩

/-! ### The word at an offset -/

/-- R62, R66: past RESULT only V and PKT have words to read. -/
theorem windowRead_pastResult (s : State) {off : Nat} (hlow : 0x010 ≤ off) :
    s.windowRead off =
      if inKey off then 0
      else if inV off then blockWord (s.readV (vIndex off)) (vWordIndex off)
      else if inPkt off then wordOfBytes fun i => s.mem.pktByte (off - Config.pktOffset + i)
      else 0 := by
  rw [State.windowRead, if_neg (show off ≠ 0x000 by omega), if_neg (show off ≠ 0x004 by omega),
    if_neg (show off ≠ 0x008 by omega), if_neg (show off ≠ 0x00C by omega)]

/-- R66: the words of V. -/
theorem windowRead_v (s : State) {off : Nat} (hv : inV off = true) :
    s.windowRead off = blockWord (s.readV (vIndex off)) (vWordIndex off) := by
  obtain ⟨hlow, -⟩ := inV_iff.mp hv
  have hk : ¬inKey off = true := by rw [inKey_iff]; omega
  rw [windowRead_pastResult s (by omega), if_neg hk, if_pos hv]

/-- R66: the words of PKT. -/
theorem windowRead_pkt (s : State) {off : Nat} (hp : inPkt off = true) :
    s.windowRead off = wordOfBytes fun i => s.mem.pktByte (off - Config.pktOffset + i) := by
  obtain ⟨hlow, -⟩ := inPkt_iff.mp hp
  have hk : ¬inKey off = true := by rw [inKey_iff]; omega
  have hv : ¬inV off = true := by rw [inV_iff]; omega
  rw [windowRead_pastResult s (by omega), if_neg hk, if_neg hv, if_pos hp]

/-- R68, R69: past RESULT, what is no word of V or PKT reads 0. -/
theorem windowRead_eq_zero (s : State) {off : Nat} (hlow : 0x010 ≤ off) (hv : ¬inV off = true)
    (hp : ¬inPkt off = true) : s.windowRead off = 0 := by
  rw [windowRead_pastResult s hlow, if_neg hv, if_neg hp, ite_self]

/-! ### A word stored -/

/-- R67, R69: a KEY word takes what is written to it unless there is a context. -/
theorem windowWrite_keyWord (s : State) {k : Nat} (hk : k < 8) (w : Word) :
    s.windowWrite (0x040 + 4 * k) w = if s.schedValid then s else s.setKeyWord k w := by
  have hkey : inKey (0x040 + 4 * k) = true := inKey_iff.mpr ⟨by omega, by omega⟩
  have hindex : (0x040 + 4 * k - Config.keyOffset) / 4 = k := by
    simp only [Config.keyOffset]
    omega
  rw [State.windowWrite, if_neg (show _ ≠ 0x008 by omega), if_pos hkey, hindex]

/-- R67: a word of V takes what is written to it. -/
theorem windowWrite_v (s : State) {off : Nat} (hv : inV off = true) (w : Word) :
    s.windowWrite off w =
      s.writeV (vIndex off) (setBlockWord (s.readV (vIndex off)) (vWordIndex off) w) := by
  obtain ⟨hlow, -⟩ := inV_iff.mp hv
  have hk : ¬inKey off = true := by rw [inKey_iff]; omega
  rw [State.windowWrite, if_neg (show _ ≠ 0x008 by omega), if_neg hk, if_pos hv]

/-- R67: a word of PKT takes the bytes written to it. -/
theorem windowWrite_pkt (s : State) {off : Nat} (hp : inPkt off = true) (w : Word) :
    s.windowWrite off w = s.setMem (s.mem.setPktBytes (off - Config.pktOffset) (wordByte w) 4) := by
  obtain ⟨hlow, -⟩ := inPkt_iff.mp hp
  have hk : ¬inKey off = true := by rw [inKey_iff]; omega
  have hv : ¬inV off = true := by rw [inV_iff]; omega
  rw [State.windowWrite, if_neg (show _ ≠ 0x008 by omega), if_neg hk, if_neg hv,
    if_pos hp]

/-- R68: every other offset but CMD's ignores a write. -/
theorem windowWrite_ignored (s : State) {off : Nat} (hc : off ≠ 0x008) (hk : ¬inKey off = true)
    (hv : ¬inV off = true) (hp : ¬inPkt off = true) (w : Word) : s.windowWrite off w = s := by
  rw [State.windowWrite, if_neg hc, if_neg hk, if_neg hv, if_neg hp]

/-- R61, R67: the bytes of a block of which one word was replaced. -/
theorem blockByte_setBlockWord (v : Block) (k : Nat) (w : Word) {j : Nat} (hj : j < 16) :
    blockByte (setBlockWord v k w) j =
      if j / 4 = k then wordByte w (j % 4) else blockByte v j := by
  have hsplit (b : Block) : blockByte b j = wordByte (blockWord b (j / 4)) (j % 4) := by
    rw [wordByte_blockWord b _ _ (by omega), Nat.div_add_mod]
  rw [hsplit, hsplit, blockWord_setBlockWord _ _ _ _ (by omega), apply_ite (wordByte · (j % 4))]

/-! ### The window after a word is stored -/

/-- R69: KEY is not seen in the window. -/
theorem windowRead_setKeyWord (s : State) (k : Nat) (w : Word) (off : Nat) :
    (s.setKeyWord k w).windowRead off = s.windowRead off := rfl

/-- An operand register is seen in V's range only. -/
theorem windowRead_writeV_outside (s : State) (n : VReg) (b : Block) {off : Nat}
    (hv : ¬inV off = true) : (s.writeV n b).windowRead off = s.windowRead off := by
  simp only [State.windowRead, if_neg hv]
  rfl

/-- The packet buffer is seen in PKT's range only. -/
theorem windowRead_setMem_outside (s : State) (m : Memory) {off : Nat} (hp : ¬inPkt off = true) :
    (s.setMem m).windowRead off = s.windowRead off := by
  simp only [State.windowRead, if_neg hp]
  rfl

/-- R66, R67: a word stored in V leaves every other word of the window. -/
theorem windowRead_writeV_otherWord (s : State) (w : Word) {off off' : Nat} (hv : inV off = true)
    (ha : off % 4 = 0) (ha' : off' % 4 = 0) (hne : off' ≠ off) :
    (s.writeV (vIndex off) (setBlockWord (s.readV (vIndex off)) (vWordIndex off) w)).windowRead off' =
      s.windowRead off' := by
  by_cases hv' : inV off' = true
  · rw [windowRead_v _ hv', windowRead_v _ hv', readV_writeV]
    split_ifs with hn
    · have hk : vWordIndex off' ≠ vWordIndex off := fun hk => hne <| by
        rw [← vOffset_index hv ha, ← vOffset_index hv' ha', hn, hk]
      rw [blockWord_setBlockWord _ _ _ _ (vWordIndex_lt off'), if_neg hk, hn]
    · rfl
  · exact windowRead_writeV_outside s _ _ hv'

/-- R66, R67: a word stored in PKT leaves every other word of the window. -/
theorem windowRead_setMem_otherWord (s : State) (f : Nat → Byte) {off off' : Nat}
    (hp : inPkt off = true) (ha : off % 4 = 0) (ha' : off' % 4 = 0) (hne : off' ≠ off) :
    (s.setMem (s.mem.setPktBytes (off - Config.pktOffset) f 4)).windowRead off' =
      s.windowRead off' := by
  by_cases hp' : inPkt off' = true
  · obtain ⟨hlow, -⟩ := inPkt_iff.mp hp
    obtain ⟨hlow', -⟩ := inPkt_iff.mp hp'
    rw [windowRead_pkt _ hp', windowRead_pkt _ hp']
    refine wordOfBytes_congr fun i hi => read_setPktBytes_other _ _ _ _ ?_
    simp only [Config.pktOffset]
    omega
  · exact windowRead_setMem_outside s _ hp'

/-- R66, R67: but for a command issued, a write changes no word of the window other than the one it is to. -/
theorem windowRead_windowWrite_other (s : State) (w : Word) {off off' : Nat}
    (hc : off ≠ Config.cmdOffset) (ha : off % 4 = 0) (ha' : off' % 4 = 0) (hne : off' ≠ off) :
    (s.windowWrite off w).windowRead off' = s.windowRead off' := by
  rcases windowWrite_cases s off w with ⟨hc', -⟩ | ⟨-, -, h⟩ | ⟨hv, h⟩ | ⟨hp, h⟩ | h
  · exact absurd hc' hc
  · rw [h, windowRead_setKeyWord]
  · rw [h, windowRead_writeV_otherWord s w hv ha ha' hne]
  · rw [h, windowRead_setMem_otherWord s _ hp ha ha' hne]
  · rw [h]

/-- R66, R67: a word written to V or to PKT stands there after. -/
theorem windowRead_windowWrite_same {s : State} (hm : s.mem.wf) (w : Word) {off : Nat}
    (h : inV off = true ∨ inPkt off = true) : (s.windowWrite off w).windowRead off = w := by
  rcases h with hv | hp
  · rw [windowWrite_v s hv, windowRead_v _ hv, readV_writeV_same,
      blockWord_setBlockWord _ _ _ _ (vWordIndex_lt off), if_pos rfl]
  · rw [windowWrite_pkt s hp, windowRead_pkt _ hp, State.setMem_mem]
    refine (wordOfBytes_congr fun i hi => ?_).trans (wordOfBytes_wordByte w)
    rw [pktByte_setPktBytes hm, if_pos (by omega), Nat.add_sub_cancel_left]

/-- R43, R67: no write but that of CMD issues a command. -/
theorem windowWrite_busy (s : State) (w : Word) {off : Nat} (hc : off ≠ Config.cmdOffset) :
    (s.windowWrite off w).busy = s.busy := by
  rcases windowWrite_cases s off w with ⟨hc', -⟩ | ⟨-, -, h⟩ | ⟨-, h⟩ | ⟨-, h⟩ | h
  · exact absurd hc' hc
  all_goals simp [h]

/-! ### The accesses of an idle block -/

/-- R66: with BUSY = 0 every aligned offset of the window answers a read with its word. -/
theorem memRead_idle {s : State} (hb : s.busy = false) {off : Nat} (ha : off % 4 = 0)
    (hw : off < 0x400) : memRead 4 off s = .next (s.windowRead off) :=
  memRead_eq_next.mpr ⟨rfl, ha, hw, by simp [hb], rfl⟩

/-- R67: with BUSY = 0 every aligned offset of the window takes a write. -/
theorem memWrite_idle {s : State} (hb : s.busy = false) {off : Nat} (ha : off % 4 = 0)
    (hw : off < 0x400) (w : Word) : memWrite 4 off w s = .next (s.windowWrite off w) :=
  memWrite_eq_next.mpr ⟨rfl, ha, hw, hb, rfl⟩

/-! ### V and PKT -/

/-- R62: a word of V or of PKT stands inside the window, and past CMD. -/
theorem dataWord_bounds {off : Nat} (h : inV off = true ∨ inPkt off = true) :
    off < 0x400 ∧ off ≠ Config.cmdOffset := by
  rw [inV_iff, inPkt_iff] at h
  simp only [Config.cmdOffset]
  omega

theorem memWrite_readsBack {s : State} (hm : s.mem.wf) (hb : s.busy = false) (w : Word) {off : Nat}
    (ha : off % 4 = 0) (h : inV off = true ∨ inPkt off = true) :
    ∃ t, memWrite 4 off w s = .next t ∧ memRead 4 off t = .next w ∧
      ∀ off', off' % 4 = 0 → off' ≠ off → t.windowRead off' = s.windowRead off' := by
  obtain ⟨hw, hc⟩ := dataWord_bounds h
  have hread := memRead_idle ((windowWrite_busy s w hc).trans hb) ha hw
  rw [windowRead_windowWrite_same hm w h] at hread
  exact ⟨_, memWrite_idle hb ha hw w, hread,
    fun _ ha' hne => windowRead_windowWrite_other s w hc ha ha' hne⟩

/-- R62, R67: the write of word `k` of `V[n]`. -/
theorem memWrite_v {s : State} (hb : s.busy = false) (w : Word) (n : VReg) {k : Nat} (hk : k < 4) :
    memWrite 4 (0x100 + 16 * n.val + 4 * k) w s =
      .next (s.writeV n (setBlockWord (s.readV n) k w)) := by
  obtain ⟨hn, hword⟩ := vIndex_offset n hk
  have hv := inV_word n hk
  obtain ⟨hw, -⟩ := dataWord_bounds (.inl hv)
  rw [memWrite_idle hb (by omega) hw, windowWrite_v s hv, hn, hword]

/-- R62, R67: the write of `PKT[4k .. 4k+3]`. -/
theorem memWrite_pkt {s : State} (hb : s.busy = false) (w : Word) {k : Nat} (hk : k < 47) :
    memWrite 4 (0x200 + 4 * k) w s = .next (s.setMem (s.mem.setPktBytes (4 * k) (wordByte w) 4)) := by
  rw [memWrite_idle hb (by omega) (by omega), windowWrite_pkt s (inPkt_offset hk),
    Nat.add_sub_cancel_left]

/-- Settles O43: the window's words by their offsets, then the bytes of V and of PKT by register and word. -/
theorem writtenWordReadsBack : Obligations.WrittenWordReadsBack := by
  intro s w hm hb
  refine ⟨fun off ha h => ?_, fun n k hk => ?_, fun k hk => ?_⟩
  · exact memWrite_readsBack hm hb w ha (h.imp inV_iff.mpr inPkt_iff.mpr)
  · refine ⟨_, memWrite_v hb w n hk, rfl, fun j hj => readV_writeV_other s _ hj, fun j hj => ?_⟩
    rw [readV_writeV_same]
    exact blockByte_setBlockWord (s.readV n) k w hj
  · exact ⟨_, memWrite_pkt hb w hk, rfl, fun a => read_setPktBytes hm (4 * k) (wordByte w) 4 a⟩

/-! ### KEY -/

/-- Settles O44: the one word of the window that never shows what was written to it. -/
theorem keyIsWriteOnlyAndFrozen : Obligations.KeyIsWriteOnlyAndFrozen := by
  intro s k w hk hb
  have hread : s.windowRead (0x040 + 4 * k) = 0 := by
    refine windowRead_eq_zero s (by omega) ?_ ?_
    · rw [inV_iff]; omega
    · rw [inPkt_iff]; omega
  have hwrite := memWrite_idle hb (off := 0x040 + 4 * k) (by omega) (by omega) w
  rw [windowWrite_keyWord s hk] at hwrite
  refine ⟨hread ▸ memRead_idle hb (by omega) (by omega), _, hwrite, ?_⟩
  split_ifs
  · rfl
  · exact ⟨fun j hj => keyByte_setKeyWord s k w j hj, rfl⟩

/-! ### The values read -/

/-- R34: CAP holds HWPATH in its lowest bit. -/
theorem capWord_eq_append (s : State) : s.capWord = 0#31 ++ BitVec.ofBool s.hwpath := by
  rw [State.capWord]
  cases s.hwpath <;> rfl

theorem extractLsb'_one (w : Word) (i : Nat) : w.extractLsb' i 1 = BitVec.ofBool (w.getLsbD i) :=
  extractLsb'_eq_of_bits fun j hj => by
    obtain rfl : j = 0 := by omega
    simp

/-- R35: the fields of STATUS side by side, the highest first. -/
theorem statusWord_eq_append (s : State) :
    s.statusWord =
      0#8 ++ s.klen ++ s.nr ++ errNumber s.err ++ 0#2 ++ BitVec.ofBool s.schedValid ++
        BitVec.ofBool s.busy := by
  rw [State.busy, ← statusWord_reserved_high s, ← statusWord_klen s, ← statusWord_nr s,
    ← statusWord_err s, ← statusWord_reserved_low s, ← statusWord_schedValid s,
    ← statusWord_busy s, ← extractLsb'_one, ← extractLsb'_one]
  simp only [BitVec.extractLsb'_append_extractLsb'_eq_extractLsb', BitVec.extractLsb'_eq_self]

/-- R42, R66: a word of PKT is its four bytes, the first the lowest. -/
theorem windowRead_pkt_eq_append (s : State) {k : Nat} (hk : k < 47) :
    s.windowRead (0x200 + 4 * k) =
      s.mem.read (0x203 + 4 * k) ++ s.mem.read (0x202 + 4 * k) ++ s.mem.read (0x201 + 4 * k) ++
        s.mem.read (0x200 + 4 * k) := by
  have hbyte (i : Nat) : s.mem.pktByte (4 * k + i) = s.mem.read (0x200 + i + 4 * k) :=
    congrArg s.mem.read (by simp only [Config.pktOffset]; omega)
  rw [windowRead_pkt s (inPkt_offset hk), Nat.add_sub_cancel_left, wordOfBytes, hbyte, hbyte, hbyte,
    hbyte]

/-- R70: a read that answers gives the window's word and leaves the block as it was. -/
theorem hostAccess_read {width off : Nat} {s t : State}
    (h : hostAccess (.read width off) s = .next t) :
    memRead width off s = .next (s.windowRead off) ∧ t = s.pushReturned (s.windowRead off) := by
  obtain ⟨w, hr, rfl⟩ := mapNext_eq_next.mp h
  obtain ⟨-, -, -, -, rfl⟩ := memRead_eq_next.mp hr
  exact ⟨hr, rfl⟩

/-- R66: with BUSY = 0 a read gives the word of `V[n]` that stands at the offset. -/
theorem memRead_v {s : State} (hb : s.busy = false) (n : VReg) {k : Nat} (hk : k < 4) :
    memRead 4 (0x100 + 16 * n.val + 4 * k) s = .next (blockWord (s.readV n) k) := by
  obtain ⟨hn, hword⟩ := vIndex_offset n hk
  have hv := inV_word n hk
  obtain ⟨hw, -⟩ := dataWord_bounds (.inl hv)
  rw [memRead_idle hb (by omega) hw, windowRead_v s hv, hn, hword]

/-- Settles O45, register by register. -/
theorem readsHaveNoSideEffect : Obligations.ReadsHaveNoSideEffect := by
  refine ⟨fun _ _ _ _ h => hostAccess_read h, fun s hb => ?_⟩
  refine ⟨?cap, ?status, memRead_idle hb rfl (by decide), memRead_idle hb rfl (by decide),
    fun n k hk => memRead_v hb n hk, fun k hk => ?pkt⟩
  case cap => exact capWord_eq_append s ▸ memRead_idle hb rfl (by decide)
  case status =>
    have hstatus := statusWord_eq_append s
    rw [hb] at hstatus
    exact hstatus ▸ memRead_idle hb rfl (by decide)
  case pkt => exact windowRead_pkt_eq_append s hk ▸ memRead_idle hb (by omega) (by omega)

/-! ### The offsets without storage -/

/-- R62: where the four reserved ranges stand, nothing else does. -/
theorem reserved_outside {off : Nat} (ha : off % 4 = 0)
    (h : (0x010 ≤ off ∧ off ≤ 0x03F) ∨ (0x060 ≤ off ∧ off ≤ 0x0FF) ∨
      (0x180 ≤ off ∧ off ≤ 0x1FF) ∨ (0x2BC ≤ off ∧ off ≤ 0x3FF)) :
    0x010 ≤ off ∧ off < 0x400 ∧ ¬inKey off = true ∧ ¬inV off = true ∧ ¬inPkt off = true := by
  rw [inKey_iff, inV_iff, inPkt_iff]
  omega

/-- R62, R68: the read-only registers take no write. -/
theorem windowWrite_readOnly (s : State) {off : Nat}
    (h : off = 0x000 ∨ off = 0x004 ∨ off = 0x00C) (w : Word) : s.windowWrite off w = s := by
  rcases h with rfl | rfl | rfl <;> rfl

/-- Settles O46: the reserved ranges, then the read-only registers. -/
theorem reservedOffsetsReadZero : Obligations.ReservedOffsetsReadZero := by
  intro s off w hb ha
  refine ⟨fun h => ?_, fun h => ?_⟩
  · obtain ⟨hlow, hw, hk, hv, hp⟩ := reserved_outside ha h
    rw [memRead_idle hb ha hw, memWrite_idle hb ha hw, windowRead_eq_zero s hlow hv hp,
      windowWrite_ignored s (by omega) hk hv hp]
    exact ⟨rfl, rfl⟩
  · rw [memWrite_idle hb ha (by omega), windowWrite_readOnly s h]

/-! ### The window on the bus -/

/-- R60: at the address of a window offset the bus carries the access at that offset. -/
theorem busAccess_onBus (a : Access) (s : State) : busAccess a.onBus s = hostAccess a s := by
  cases a with
  | read width off =>
    simp only [busAccess, Access.onBus, if_neg (Nat.not_lt.mpr (Nat.le_add_right ..)),
      Nat.add_sub_cancel_left]
  | write width off w =>
    simp only [busAccess, Access.onBus, if_neg (Nat.not_lt.mpr (Nat.le_add_right ..)),
      Nat.add_sub_cancel_left]

/-- Settles O47: the step by its input, the bus by the side of BASE on which the address lies. -/
theorem windowStandsAtBase : Obligations.WindowStandsAtBase :=
  ⟨fun _ _ _ => ⟨step_cons, step_cons⟩,
    fun width off _ w s => ⟨busAccess_onBus (.read width off) s, busAccess_onBus (.write width off w) s,
      fun h => ⟨if_pos h, if_pos h⟩⟩⟩

end Sys2Proof.Machine
end

section
/-! Command words (R91 to R98): a word by its fields, the mask of each operand form, and `decode` as the opcode map
reads it. -/

namespace Sys2Proof

/-! ### A word and its fields (R91) -/

/-- R91: the six fields are the whole word. -/
theorem word_eq_iff_fields {w u : Word} :
    w = u ↔ opOf w = opOf u ∧ vdOf w = vdOf u ∧ vs1Of w = vs1Of u ∧ vs2Of w = vs2Of u ∧
      rsvOf w = rsvOf u ∧ imm8Of w = imm8Of u := by
  refine ⟨fun h => by subst h; exact ⟨rfl, rfl, rfl, rfl, rfl, rfl⟩, fun h => ?_⟩
  simp only [opOf, vdOf, vs1Of, vs2Of, rsvOf, imm8Of, ← BitVec.toNat_inj,
    BitVec.extractLsb'_toNat, Nat.shiftRight_eq_div_pow] at h ⊢
  omega

/-! A word of each operand form (R91) is the command word of the fields the form uses. -/

section Forms

variable {w : Word} {op : Byte}

theorem commandWord_of_formN (hop : opOf w = op) (h : formN w = true) :
    commandWord op 0 0 0 0 = w := by
  simp only [formN, Bool.and_eq_true, beq_iff_eq] at h
  obtain ⟨⟨⟨⟨hd, h1⟩, h2⟩, hr⟩, hi⟩ := h
  simp [word_eq_iff_fields, hop, hd, h1, h2, hr, hi]

theorem commandWord_of_formI (hop : opOf w = op) (h : formI w = true) :
    commandWord op 0 0 0 (imm8Of w) = w := by
  simp only [formI, Bool.and_eq_true, beq_iff_eq] at h
  obtain ⟨⟨⟨hd, h1⟩, h2⟩, hr⟩ := h
  simp [word_eq_iff_fields, hop, hd, h1, h2, hr]

theorem commandWord_of_formR2 (hop : opOf w = op) (h : formR2 w = true) :
    commandWord op (vregOf (vdOf w)) (vregOf (vs1Of w)) 0 0 = w := by
  simp only [formR2, Bool.and_eq_true, beq_iff_eq] at h
  obtain ⟨⟨h2, hr⟩, hi⟩ := h
  simp [word_eq_iff_fields, hop, h2, hr, hi]

theorem commandWord_of_formR3 (hop : opOf w = op) (h : formR3 w = true) :
    commandWord op (vregOf (vdOf w)) (vregOf (vs1Of w)) (vregOf (vs2Of w)) 0 = w := by
  simp only [formR3, Bool.and_eq_true, beq_iff_eq] at h
  obtain ⟨hr, hi⟩ := h
  simp [word_eq_iff_fields, hop, hr, hi]

theorem commandWord_of_formR2I (hop : opOf w = op) (h : formR2I w = true) :
    commandWord op (vregOf (vdOf w)) (vregOf (vs1Of w)) 0 (imm8Of w) = w := by
  simp only [formR2I, Bool.and_eq_true, beq_iff_eq] at h
  obtain ⟨h2, hr⟩ := h
  simp [word_eq_iff_fields, hop, h2, hr]

/-- R92: VLDRK's IMM8 is the one of its `sel` and `idx`. -/
theorem roundKeyImm_of_fields {b : Byte} :
    b.extractLsb' 5 3 = 0 → roundKeyImm (selOf b) (idxOf b) = b := by
  revert b
  decide

theorem commandWord_of_formRK (hop : opOf w = op) (h : formRK w = true) :
    commandWord op (vregOf (vdOf w)) 0 0 (roundKeyImm (selOf (imm8Of w)) (idxOf (imm8Of w))) = w := by
  simp only [formRK, Bool.and_eq_true, beq_iff_eq] at h
  obtain ⟨⟨⟨h1, h2⟩, hr⟩, hi⟩ := h
  simp [word_eq_iff_fields, hop, h1, h2, hr, roundKeyImm_of_fields hi]

end Forms

theorem idxOf_lt (b : Byte) : idxOf b < 16 := BitVec.isLt _

theorem whenForm_eq_some {ok : Bool} {i j : Instr} : whenForm ok i = some j ↔ ok = true ∧ i = j := by
  cases ok <;> simp [whenForm]

/-! ### Decoding and encoding -/

/-- Settles O1: the fields of each command's word are its operands, and those its form leaves out are 0. -/
theorem decodeInvertsEncode : Obligations.DecodeInvertsEncode := by
  intro i hi
  cases i with
  | derive klen =>
    have hk : klen < 2 ^ 8 := of_decide_eq_true hi
    simpa [encode, decode, whenForm, formI] using hk
  | encb vd vs => simp [encode, decode, whenForm, formR2]
  | decb vd vs => simp [encode, decode, whenForm, formR2]
  | zeroize => rfl
  | pktdec => rfl
  | pktchk => rfl
  | aesenc vd vs1 vs2 => simp [encode, decode, whenForm, formR3]
  | aesenclast vd vs1 vs2 => simp [encode, decode, whenForm, formR3]
  | aesdec vd vs1 vs2 => simp [encode, decode, whenForm, formR3]
  | aesdeclast vd vs1 vs2 => simp [encode, decode, whenForm, formR3]
  | aesimc vd vs => simp [encode, decode, whenForm, formR2]
  | aeskeygenassist vd vs rcon => simp [encode, decode, whenForm, formR2I]
  | vxor vd vs1 vs2 => simp [encode, decode, whenForm, formR3]
  | vldrk vd sel idx =>
    obtain ⟨hidx, hsel, hzero⟩ := roundKeyImm_fields sel (of_decide_eq_true hi)
    simp [encode, decode, whenForm, formRK, hidx, hsel, hzero]

/-- Settles O2: each branch of `decode` has checked the fields that the encoder writes as 0. -/
theorem encodeInvertsDecode : Obligations.EncodeInvertsDecode := by
  intro w i h
  simp only [decode] at h
  -- `h_k` is the `k`-th row of the opcode map, `h_15` an unassigned OP.
  split at h
  case h_15 => cases h
  all_goals
    rename_i hop
    obtain ⟨hf, rfl⟩ := whenForm_eq_some.mp h
  case h_1 =>
    refine ⟨decide_eq_true (imm8Of w).isLt, ?_⟩
    rw [encode, BitVec.ofNat_toNat, BitVec.setWidth_eq]
    exact commandWord_of_formI hop hf
  case h_4 | h_5 | h_6 => exact ⟨rfl, commandWord_of_formN hop hf⟩
  case h_2 | h_3 | h_11 => exact ⟨rfl, commandWord_of_formR2 hop hf⟩
  case h_7 | h_8 | h_9 | h_10 | h_13 => exact ⟨rfl, commandWord_of_formR3 hop hf⟩
  case h_12 => exact ⟨rfl, commandWord_of_formR2I hop hf⟩
  case h_14 => exact ⟨decide_eq_true (idxOf_lt _), commandWord_of_formRK hop hf⟩

/-- Settles O7: `decode` run on the six words. -/
theorem exampleWordsDecode : Obligations.ExampleWordsDecode :=
  ⟨by decide, by decide, by decide, by decide, by decide, by decide⟩

/-! ### The opcode map (R93) -/

/-- The fields above OP that a row's mask selects are 0 in the word. -/
def zeroFields (m w : Word) : Bool :=
  vdOf w &&& vdOf m == 0 && vs1Of w &&& vs1Of m == 0 && vs2Of w &&& vs2Of m == 0 &&
    rsvOf w &&& rsvOf m == 0 && imm8Of w &&& imm8Of m == 0

/-- R93: every row's mask selects the whole of OP, and its match has the row's opcode there and 0 above. -/
theorem opcodeTable_fields :
    ∀ r ∈ opcodeTable, opOf r.mask = BitVec.allOnes 8 ∧ opOf r.pattern = r.opcode ∧
      vdOf r.pattern = 0 ∧ vs1Of r.pattern = 0 ∧ vs2Of r.pattern = 0 ∧ rsvOf r.pattern = 0 ∧
      imm8Of r.pattern = 0 := by decide

/-- R93: `w & mask = match`, field by field. -/
theorem masked_eq_pattern_iff {r : OpcodeRow} (hr : r ∈ opcodeTable) (w : Word) :
    w &&& r.mask = r.pattern ↔ opOf w = r.opcode ∧ zeroFields r.mask w = true := by
  obtain ⟨hm, hp, hd, h1, h2, hv, hi⟩ := opcodeTable_fields r hr
  have hop : opOf (w &&& r.mask) = opOf w := by
    rw [opOf, BitVec.extractLsb'_and]
    exact (congrArg (opOf w &&& ·) hm).trans BitVec.and_allOnes
  rw [word_eq_iff_fields, hop, hp, hd, h1, h2, hv, hi]
  simp only [zeroFields, vdOf, vs1Of, vs2Of, rsvOf, imm8Of, BitVec.extractLsb'_and,
    Bool.and_eq_true, beq_iff_eq, and_assoc]

/-! R91, R93: the fields each operand form wants 0 are those its rows' mask selects. -/

section Masks

variable (w : Word)

theorem and_ones_three (b : BitVec 3) : b &&& 7#3 = b := BitVec.and_allOnes
theorem and_ones_seven (b : BitVec 7) : b &&& 127#7 = b := BitVec.and_allOnes
theorem and_ones_eight (b : Byte) : b &&& 255#8 = b := BitVec.and_allOnes

theorem formN_eq : formN w = zeroFields 0xFFFFFFFF w := by
  simp [formN, zeroFields, vdOf, vs1Of, vs2Of, rsvOf, imm8Of, and_ones_three, and_ones_seven,
    and_ones_eight]

theorem formI_eq : formI w = zeroFields 0x00FFFFFF w := by
  simp [formI, zeroFields, vdOf, vs1Of, vs2Of, rsvOf, imm8Of, and_ones_three, and_ones_seven]

theorem formR2_eq : formR2 w = zeroFields 0xFFFFC0FF w := by
  simp [formR2, zeroFields, vdOf, vs1Of, vs2Of, rsvOf, imm8Of, and_ones_three, and_ones_seven,
    and_ones_eight]

theorem formR3_eq : formR3 w = zeroFields 0xFFFE00FF w := by
  simp [formR3, zeroFields, vdOf, vs1Of, vs2Of, rsvOf, imm8Of, and_ones_seven, and_ones_eight]

theorem formR2I_eq : formR2I w = zeroFields 0x00FFC0FF w := by
  simp [formR2I, zeroFields, vdOf, vs1Of, vs2Of, rsvOf, imm8Of, and_ones_three, and_ones_seven]

/-- R91: the top three bits of IMM8, taken out or masked. -/
theorem extract_top_eq_zero (b : Byte) : (b.extractLsb' 5 3 == 0) = (b &&& 224#8 == 0) := by
  revert b
  decide

theorem formRK_eq : formRK w = zeroFields 0xE0FFF8FF w := by
  rw [formRK, extract_top_eq_zero]
  simp [zeroFields, vdOf, vs1Of, vs2Of, rsvOf, imm8Of, and_ones_three, and_ones_seven]

end Masks

/-- R93: a word with a row's OP decodes to a command of that row if its masked fields are 0, and to none otherwise. -/
theorem decode_of_opcode (w : Word) :
    ∀ r ∈ opcodeTable, opOf w = r.opcode →
      ∃ i : Instr, r.mnemonic = i.mnemonic ∧ r.hwpathOnly = i.primitive ∧
        decode w = whenForm (zeroFields r.mask w) i := by
  intro r hr h
  simp only [opcodeTable, List.mem_cons, List.not_mem_nil, or_false] at hr
  rcases hr with rfl | rfl | rfl | rfl | rfl | rfl | rfl | rfl | rfl | rfl | rfl | rfl | rfl | rfl
  all_goals
    simp only [decode, h, formN_eq, formI_eq, formR2_eq, formR3_eq, formR2I_eq, formRK_eq]
    exact ⟨_, by rfl, by rfl, rfl⟩

/-- R91, R93: every command has a row of the map, and its word carries the row's opcode. -/
theorem exists_row_of_encode (i : Instr) :
    ∃ r ∈ opcodeTable, r.mnemonic = i.mnemonic ∧ r.opcode = opOf (encode i) := by
  have h : Laws.EncodedRow.Statement i := by
    cases i with
    | derive => exact Laws.EncodedRow.derive ..
    | encb => exact Laws.EncodedRow.encb ..
    | decb => exact Laws.EncodedRow.decb ..
    | zeroize => exact Laws.EncodedRow.zeroize
    | pktdec => exact Laws.EncodedRow.pktdec
    | pktchk => exact Laws.EncodedRow.pktchk
    | aesenc => exact Laws.EncodedRow.aesenc ..
    | aesenclast => exact Laws.EncodedRow.aesenclast ..
    | aesdec => exact Laws.EncodedRow.aesdec ..
    | aesdeclast => exact Laws.EncodedRow.aesdeclast ..
    | aesimc => exact Laws.EncodedRow.aesimc ..
    | aeskeygenassist => exact Laws.EncodedRow.aeskeygenassist ..
    | vxor => exact Laws.EncodedRow.vxor ..
    | vldrk => exact Laws.EncodedRow.vldrk ..
  exact h.1

/-- R93: a word that decodes has the OP of a row. -/
theorem exists_opcode_of_decode {w : Word} {i : Instr} (h : decode w = some i) :
    ∃ r ∈ opcodeTable, opOf w = r.opcode := by
  obtain ⟨r, hr, -, hop⟩ := exists_row_of_encode i
  exact ⟨r, hr, by rw [hop, (encodeInvertsDecode w i h).2]⟩

/-- Settles O3: the row of a decoded word is the one with its OP, and a row's mask checks the fields its form wants 0. -/
theorem decodeIsTheOpcodeMap : Obligations.DecodeIsTheOpcodeMap := by
  refine ⟨fun w i h => ?_, fun w ⟨r, hr, hw⟩ => ?_⟩
  · obtain ⟨r, hr, hop⟩ := exists_opcode_of_decode h
    obtain ⟨j, hm, hp, hd⟩ := decode_of_opcode w r hr hop
    obtain ⟨hz, rfl⟩ := whenForm_eq_some.mp (hd.symm.trans h)
    exact ⟨r, hr, hm, hp, (masked_eq_pattern_iff hr w).mpr ⟨hop, hz⟩⟩
  · obtain ⟨hop, hz⟩ := (masked_eq_pattern_iff hr w).mp hw
    obtain ⟨i, -, -, hd⟩ := decode_of_opcode w r hr hop
    exact ⟨i, hd.trans (whenForm_eq_some.mpr ⟨hz, rfl⟩)⟩

end Sys2Proof
end

section
/-! What executing a command word does where the word is illegal on the path (R94, R95), and the line formula (R98). -/

namespace Sys2Proof.Machine

/-! ### Executing a command word (R94, R95) -/

theorem primitive_portable {s : State} (h : s.hwpath = false) (vd : VReg) (b : Block) :
    s.primitive vd b = s.raise .illegal :=
  if_neg (by simp [h])

/-- R180: the meaning of a primitive makes R94's third check. -/
theorem exec_primitive_portable {i : Instr} (hi : i.primitive = true) {s : State}
    (hs : s.hwpath = false) : exec i s = .next (s.raise .illegal) := by
  cases i with
  | aesenc => exact congrArg Host.Outcome.next (primitive_portable hs ..)
  | aesenclast => exact congrArg Host.Outcome.next (primitive_portable hs ..)
  | aesdec => exact congrArg Host.Outcome.next (primitive_portable hs ..)
  | aesdeclast => exact congrArg Host.Outcome.next (primitive_portable hs ..)
  | aesimc => exact congrArg Host.Outcome.next (primitive_portable hs ..)
  | aeskeygenassist => exact congrArg Host.Outcome.next (primitive_portable hs ..)
  | _ => cases hi

theorem execute_of_decode_none {w : Word} (h : decode w = none) (s : State) :
    execute w s = .next (s.raise .illegal) := by rw [execute, h]

theorem execute_of_decode_some {w : Word} {i : Instr} (h : decode w = some i) (s : State) :
    execute w s = exec i s := by rw [execute, h]

theorem decodeOn_of_decode_none {w : Word} (h : decode w = none) (path : Bool) :
    decodeOn path w = none := by rw [decodeOn, h]

theorem decodeOn_of_decode_some {w : Word} {i : Instr} (h : decode w = some i) (path : Bool) :
    decodeOn path w = if i.primitive && !path then none else some i := by rw [decodeOn, h]

/-- Settles O4: R94's first two checks are `decode`'s, and the third is made in the primitives' meanings. -/
theorem executeFollowsDecode : Obligations.ExecuteFollowsDecode := by
  intro w s
  cases hd : decode w with
  | none =>
    rw [execute_of_decode_none hd, decodeOn_of_decode_none hd]
    rfl
  | some i =>
    rw [execute_of_decode_some hd, decodeOn_of_decode_some hd]
    split_ifs with hc
    · obtain ⟨hi, hs⟩ := (Bool.and_eq_true ..).mp hc
      exact exec_primitive_portable hi (Bool.not_eq_true' _ |>.mp hs)
    · rfl

theorem decode_eq_none_of_opcode {w : Word} (h : ∀ r ∈ opcodeTable, r.opcode ≠ opOf w) :
    decode w = none := by
  refine Option.eq_none_iff_forall_ne_some.mpr fun i hi => ?_
  obtain ⟨r, hr, hop⟩ := exists_opcode_of_decode hi
  exact h r hr hop.symm

/-- Settles O5: the first two kinds do not decode; the third does not, or is a primitive. -/
theorem illegalWordsChangeOnlyErr : Obligations.IllegalWordsChangeOnlyErr := by
  intro w s h
  change execute w s = .next (s.raise .illegal)
  rcases h with h | ⟨r, hr, hop, hw⟩ | ⟨r, hr, hop, hh, hs⟩
  · exact execute_of_decode_none (decode_eq_none_of_opcode h) s
  · obtain ⟨i, -, -, hd⟩ := decode_of_opcode w r hr hop.symm
    have hz : zeroFields r.mask w ≠ true := fun hz =>
      hw ((masked_eq_pattern_iff hr w).mpr ⟨hop.symm, hz⟩)
    exact execute_of_decode_none (hd.trans (if_neg hz)) s
  · obtain ⟨i, -, hp, hd⟩ := decode_of_opcode w r hr hop.symm
    cases hz : zeroFields r.mask w with
    | false => exact execute_of_decode_none (by rw [hd, hz]; rfl) s
    | true =>
      rw [execute_of_decode_some (hd.trans (whenForm_eq_some.mpr ⟨hz, rfl⟩))]
      exact exec_primitive_portable (hp.symm.trans hh) hs

/-! ### The line formula (R98) -/

/-- R98: the shifts put each field at the bits where R91's diagram has it. -/
theorem commandWord_eq_lineWord (op : Byte) (vd vs1 vs2 : VReg) (imm8 : Byte) :
    commandWord op vd vs1 vs2 imm8 = lineWord op.toNat vd vs1 vs2 imm8.toNat := by
  refine BitVec.eq_of_getLsbD_eq fun i hi => ?_
  rw [getLsbD_commandWord, lineWord, ofNat_eq_setWidth op.isLt, ofNat_eq_setWidth imm8.isLt,
    ofNat_eq_setWidth (n := 3) vd.isLt, ofNat_eq_setWidth (n := 3) vs1.isLt,
    ofNat_eq_setWidth (n := 3) vs2.isLt]
  simp (disch := omega) only [BitVec.getLsbD_or, getLsbD_field, BitVec.getLsbD_setWidth,
    BitVec.ofNat_toNat, BitVec.setWidth_eq, vregBits, decide_eq_true hi]
  split_ifs <;>
    simp (disch := omega) [BitVec.getLsbD_of_ge, decide_eq_true, decide_eq_false, Nat.sub_sub]

/-- R98: VLDRK's IMM8 as a number. -/
theorem toNat_roundKeyImm {idx : Nat} (h : idx < 16) :
    (roundKeyImm .ek idx).toNat = idx ∧ (roundKeyImm .dk idx).toNat = idx ||| 1 <<< 4 := by
  revert idx
  decide

/-- Settles O6: `commandWord_eq_lineWord` at each command's fields. -/
theorem encodeIsTheLineFormula : Obligations.EncodeIsTheLineFormula := by
  refine ⟨fun klen hk => ?derive, fun vd vs => ⟨?_, ?_, ?_⟩, ⟨?_, ?_, ?_⟩,
    fun vd vs1 vs2 => ⟨?_, ?_, ?_, ?_, ?_⟩, fun vd vs rcon => ?_, fun vd idx hi => ?vldrk⟩
  case derive =>
    rw [encode, commandWord_eq_lineWord, BitVec.toNat_ofNat, Nat.mod_eq_of_lt hk]
    rfl
  case vldrk =>
    obtain ⟨hek, hdk⟩ := toNat_roundKeyImm hi
    rw [encode, encode, commandWord_eq_lineWord, commandWord_eq_lineWord, hek, hdk]
    exact ⟨rfl, rfl⟩
  all_goals exact commandWord_eq_lineWord ..

end Sys2Proof.Machine
end

section
/-! Arithmetic in GF(2^8) (R120, R121), the inverse, and the two substitution tables (R122 to R124). -/

namespace Sys2Proof.Machine

/-! ### xtime (R121) -/

theorem xtime_eq_ite_msb (a : Byte) : xtime a = a <<< 1 ^^^ if a.msb then 0x1B#8 else 0x00#8 := by
  rw [xtime, BitVec.msb_eq_getLsbD_last]

theorem xtime_zero : xtime 0 = 0 := rfl

theorem xtime_xor (a b : Byte) : xtime (a ^^^ b) = xtime a ^^^ xtime b := by
  have hite : ∀ p q : Bool, (if p ^^ q then 0x1B#8 else 0x00#8) =
      (if p then 0x1B#8 else 0x00#8) ^^^ (if q then 0x1B#8 else 0x00#8) := by decide
  rw [xtime, xtime, xtime, BitVec.getLsbD_xor, BitVec.shiftLeft_xor_distrib, hite]
  ac_rfl

theorem xtimePow_xor (i : Nat) (a b : Byte) :
    xtimePow i (a ^^^ b) = xtimePow i a ^^^ xtimePow i b := by
  induction i with
  | zero => rfl
  | succ i ih => rw [xtimePow, ih, xtime_xor]; rfl

/-- A map that commutes with `xtime` commutes with its powers. -/
theorem map_xtimePow {f : Byte → Byte} (hf : ∀ a, f (xtime a) = xtime (f a)) (i : Nat) (a : Byte) :
    f (xtimePow i a) = xtimePow i (f a) := by
  induction i with
  | zero => rfl
  | succ i ih => rw [xtimePow, hf, ih]; rfl

/-! ### Multiplication (R120, R121) -/

theorem gfMul_xor_left (a b c : Byte) : gfMul (a ^^^ b) c = gfMul a c ^^^ gfMul b c := by
  unfold gfMul
  refine List.foldl_hom₂ (List.range 8) (fun x y : Byte => x ^^^ y) _ _ _ 0x00#8 0x00#8
    fun x y i => ?_
  split_ifs
  · rw [xtimePow_xor]
    ac_rfl
  · rfl

/-- A linear map passes through the first factor: every summand of a product is a power of `xtime` of it. -/
theorem gfMul_map {f : Byte → Byte} (h0 : f 0 = 0) (hxor : ∀ a b, f (a ^^^ b) = f a ^^^ f b)
    (hxtime : ∀ a, f (xtime a) = xtime (f a)) (a c : Byte) : gfMul (f a) c = f (gfMul a c) := by
  unfold gfMul
  refine List.foldl_rel (r := fun x y : Byte => x = f y) ?_ ?_
  · exact h0.symm
  · rintro i - x y rfl
    split_ifs
    · rw [hxor, map_xtimePow hxtime]
    · rfl

theorem gfMul_xtime (a c : Byte) : gfMul (xtime a) c = xtime (gfMul a c) :=
  gfMul_map xtime_zero xtime_xor (fun _ => rfl) a c

theorem zero_gfMul (c : Byte) : gfMul 0 c = 0 := by
  have h := gfMul_xor_left 0 0 c
  rwa [BitVec.xor_self, BitVec.xor_self] at h

/-- Multiplication by `c` is itself linear, so two factors on the right change places. -/
theorem gfMul_right_comm (a b c : Byte) : gfMul (gfMul a c) b = gfMul (gfMul a b) c :=
  gfMul_map (f := (gfMul · c)) (zero_gfMul c) (gfMul_xor_left · · c) (gfMul_xtime · c) a b

theorem one_gfMul (a : Byte) : gfMul 1 a = a := by
  revert a
  decide +kernel

theorem gfMul_comm (a b : Byte) : gfMul a b = gfMul b a := by
  have h := gfMul_right_comm 1 b a
  rwa [one_gfMul, one_gfMul] at h

theorem gfMul_assoc (a b c : Byte) : gfMul (gfMul a b) c = gfMul a (gfMul b c) := by
  rw [gfMul_comm a b, gfMul_right_comm, gfMul_comm _ a]

theorem gfMul_xor_right (a b c : Byte) : gfMul a (b ^^^ c) = gfMul a b ^^^ gfMul a c := by
  rw [gfMul_comm, gfMul_xor_left, gfMul_comm b, gfMul_comm c]

/-- R121: `02 • a` is `xtime(a)`, since `02` is `xtime(01)`. -/
theorem two_gfMul (a : Byte) : gfMul 2 a = xtime a := by
  rw [show (2 : Byte) = xtime 1 from rfl, gfMul_xtime, one_gfMul]

/-! ### The inverse (R122) -/

/-- The byte whose image under the affine map of R122 is `z`. -/
def unaffine (z : Byte) : Byte := z.rotateLeft 1 ^^^ z.rotateLeft 3 ^^^ z.rotateLeft 6 ^^^ 0x05

/-- The inverse of `x` (0 for 0), by R122 read backwards; `gfMul_gfInv` says that it is one. -/
def gfInv (x : Byte) : Byte := unaffine (sbox x)

theorem gfInv_zero : gfInv 0 = 0 := by decide +kernel

theorem gfMul_gfInv : ∀ x : Byte, x ≠ 0 → gfMul x (gfInv x) = 1 := by decide +kernel

theorem eq_gfInv_of_gfMul_eq_one {x y : Byte} (h : gfMul x y = 1) : y = gfInv x := by
  have hx : x ≠ 0 := by
    rintro rfl
    rw [zero_gfMul] at h
    exact absurd h (by decide)
  calc
    y = gfMul (gfMul x (gfInv x)) y := by rw [gfMul_gfInv x hx, one_gfMul]
    _ = gfMul (gfMul x y) (gfInv x) := gfMul_right_comm ..
    _ = gfInv x := by rw [h, one_gfMul]

/-! ### The tables (R122 to R124) -/

/-- R122: `unaffine` undoes the affine map. -/
theorem getLsbD_eq_affine_unaffine : ∀ z : Byte, ∀ i < 8,
    z.getLsbD i =
      ((unaffine z).getLsbD i ^^ (unaffine z).getLsbD ((i + 4) % 8) ^^
        (unaffine z).getLsbD ((i + 5) % 8) ^^ (unaffine z).getLsbD ((i + 6) % 8) ^^
        (unaffine z).getLsbD ((i + 7) % 8) ^^ (0x63#8).getLsbD i) := by
  decide +kernel

@[simp] theorem invSbox_sbox : ∀ x : Byte, invSbox (sbox x) = x := by decide +kernel

@[simp] theorem sbox_invSbox : ∀ x : Byte, sbox (invSbox x) = x := by decide +kernel

/-- Settles O8: the inverse of the statement is `gfInv`, for which the table is the affine map. -/
theorem sboxIsInverseThenAffine : Obligations.SboxIsInverseThenAffine := by
  refine ⟨fun x y h i hi => ?_, fun x hx => ⟨gfInv x, gfMul_gfInv x hx⟩, invSbox_sbox⟩
  have hy : y = gfInv x := by
    rcases h with ⟨rfl, rfl⟩ | h
    · exact gfInv_zero.symm
    · exact eq_gfInv_of_gfMul_eq_one h
  rw [hy]
  exact getLsbD_eq_affine_unaffine (sbox x) i hi

end Sys2Proof.Machine
end

section
/-! The AES transforms (R125 to R130, R142): each is undone by its inverse. The two diffusion steps are products with a
matrix whose rows are the first one moved to the right; two such products one after the other are one. -/

namespace Sys2Proof.Machine

/-! ### Substitution and rows (R125 to R128) -/

@[simp] theorem invSubBytes_subBytes (s : Block) : invSubBytes (subBytes s) = s :=
  block_ext fun j hj => by
    rw [blockByte_invSubBytes _ j hj, blockByte_subBytes _ j hj, invSbox_sbox]

@[simp] theorem subBytes_invSubBytes (s : Block) : subBytes (invSubBytes s) = s :=
  block_ext fun j hj => by
    rw [blockByte_subBytes _ j hj, blockByte_invSubBytes _ j hj, sbox_invSbox]

@[simp] theorem invShiftRows_shiftRows (s : Block) : invShiftRows (shiftRows s) = s :=
  block_ext fun j hj => by
    rw [blockByte_invShiftRows _ j hj, blockByte_shiftRows _ _ (by omega)]
    congr 1
    omega

@[simp] theorem shiftRows_invShiftRows (s : Block) : shiftRows (invShiftRows s) = s :=
  block_ext fun j hj => by
    rw [blockByte_shiftRows _ j hj, blockByte_invShiftRows _ _ (by omega)]
    congr 1
    omega

theorem subBytes_shiftRows (s : Block) : subBytes (shiftRows s) = shiftRows (subBytes s) :=
  block_ext fun j hj => by
    rw [blockByte_subBytes _ j hj, blockByte_shiftRows _ j hj, blockByte_shiftRows _ j hj,
      blockByte_subBytes _ _ (by omega)]

@[simp] theorem invSubBytes_invShiftRows_subBytes_shiftRows (s : Block) :
    invSubBytes (invShiftRows (subBytes (shiftRows s))) = s := by
  rw [subBytes_shiftRows, invShiftRows_shiftRows, invSubBytes_subBytes]

@[simp] theorem subBytes_shiftRows_invSubBytes_invShiftRows (s : Block) :
    subBytes (shiftRows (invSubBytes (invShiftRows s))) = s := by
  rw [subBytes_shiftRows, subBytes_invSubBytes, shiftRows_invShiftRows]

/-! ### Column products (R129, R130) -/

section ColumnProduct

variable {m0 m1 m2 m3 n0 n1 n2 n3 : Byte} {s t u v : Block}

/-- Blocks with the same bytes in every column are the same. -/
theorem block_ext_columns
    (h : ∀ c < 4, blockByte t (4 * c) = blockByte u (4 * c) ∧
      blockByte t (4 * c + 1) = blockByte u (4 * c + 1) ∧
      blockByte t (4 * c + 2) = blockByte u (4 * c + 2) ∧
      blockByte t (4 * c + 3) = blockByte u (4 * c + 3)) : t = u := by
  refine block_ext fun j hj => ?_
  obtain ⟨h0, h1, h2, h3⟩ := h (j / 4) (by omega)
  have hr : j = 4 * (j / 4) ∨ j = 4 * (j / 4) + 1 ∨ j = 4 * (j / 4) + 2 ∨ j = 4 * (j / 4) + 3 := by
    omega
  rcases hr with hr | hr | hr | hr <;> rw [hr] <;> assumption

theorem ColumnProduct.unique (ht : ColumnProduct m0 m1 m2 m3 s t)
    (hu : ColumnProduct m0 m1 m2 m3 s u) : t = u := by
  refine block_ext_columns fun c hc => ?_
  obtain ⟨t0, t1, t2, t3⟩ := ht c hc
  obtain ⟨u0, u1, u2, u3⟩ := hu c hc
  exact ⟨t0.trans u0.symm, t1.trans u1.symm, t2.trans u2.symm, t3.trans u3.symm⟩

theorem columnProduct_one (s : Block) : ColumnProduct 1 0 0 0 s s := by
  intro c _
  simp only [one_gfMul, zero_gfMul]
  simp

theorem ColumnProduct.xor (ht : ColumnProduct m0 m1 m2 m3 s t)
    (hv : ColumnProduct m0 m1 m2 m3 u v) : ColumnProduct m0 m1 m2 m3 (s ^^^ u) (t ^^^ v) := by
  intro c hc
  obtain ⟨t0, t1, t2, t3⟩ := ht c hc
  obtain ⟨v0, v1, v2, v3⟩ := hv c hc
  simp only [blockByte_xor, gfMul_xor_right, t0, t1, t2, t3, v0, v1, v2, v3]
  refine ⟨?_, ?_, ?_, ?_⟩ <;> ac_rfl

/-- Two products are one, with the matrices' product: its first row says all of it. -/
theorem ColumnProduct.comp (ht : ColumnProduct m0 m1 m2 m3 s t)
    (hu : ColumnProduct n0 n1 n2 n3 t u) :
    ColumnProduct
      (gfMul n0 m0 ^^^ gfMul n1 m3 ^^^ gfMul n2 m2 ^^^ gfMul n3 m1)
      (gfMul n0 m1 ^^^ gfMul n1 m0 ^^^ gfMul n2 m3 ^^^ gfMul n3 m2)
      (gfMul n0 m2 ^^^ gfMul n1 m1 ^^^ gfMul n2 m0 ^^^ gfMul n3 m3)
      (gfMul n0 m3 ^^^ gfMul n1 m2 ^^^ gfMul n2 m1 ^^^ gfMul n3 m0) s u := by
  intro c hc
  obtain ⟨t0, t1, t2, t3⟩ := ht c hc
  obtain ⟨u0, u1, u2, u3⟩ := hu c hc
  simp only [u0, u1, u2, u3, t0, t1, t2, t3, gfMul_xor_left, gfMul_xor_right, gfMul_assoc]
  refine ⟨?_, ?_, ?_, ?_⟩ <;> ac_rfl

end ColumnProduct

/-- R13: the bytes of a column are those of its word. -/
theorem blockByte_column (s : Block) (c : Nat) :
    blockByte s (4 * c) = wordByte (blockWord s c) 0 ∧
      blockByte s (4 * c + 1) = wordByte (blockWord s c) 1 ∧
      blockByte s (4 * c + 2) = wordByte (blockWord s c) 2 ∧
      blockByte s (4 * c + 3) = wordByte (blockWord s c) 3 :=
  ⟨(wordByte_blockWord s c 0 (by decide)).symm, (wordByte_blockWord s c 1 (by decide)).symm,
    (wordByte_blockWord s c 2 (by decide)).symm, (wordByte_blockWord s c 3 (by decide)).symm⟩

theorem columnProduct_mixColumns (s : Block) :
    ColumnProduct 0x02 0x03 0x01 0x01 s (mixColumns s) := by
  intro c hc
  obtain ⟨s0, s1, s2, s3⟩ := blockByte_column s c
  obtain ⟨t0, t1, t2, t3⟩ := blockByte_column (mixColumns s) c
  obtain ⟨w0, w1, w2, w3⟩ := wordByte_mixColumn (blockWord s c)
  simp only [s0, s1, s2, s3, t0, t1, t2, t3, blockWord_mixColumns s c hc, w0, w1, w2, w3, one_gfMul,
    and_self]

theorem columnProduct_invMixColumns (s : Block) :
    ColumnProduct 0x0E 0x0B 0x0D 0x09 s (invMixColumns s) := by
  intro c hc
  obtain ⟨s0, s1, s2, s3⟩ := blockByte_column s c
  obtain ⟨t0, t1, t2, t3⟩ := blockByte_column (invMixColumns s) c
  rw [s0, s1, s2, s3, t0, t1, t2, t3, blockWord_invMixColumns s c hc]
  exact wordByte_invMixColumn (blockWord s c)

/-- R130: the product of the two matrices is the identity, in both orders. -/
@[simp] theorem invMixColumns_mixColumns (s : Block) : invMixColumns (mixColumns s) = s :=
  ((columnProduct_mixColumns s).comp (columnProduct_invMixColumns (mixColumns s))).unique
    (columnProduct_one s)

@[simp] theorem mixColumns_invMixColumns (s : Block) : mixColumns (invMixColumns s) = s :=
  ((columnProduct_invMixColumns s).comp (columnProduct_mixColumns (invMixColumns s))).unique
    (columnProduct_one s)

theorem mixColumns_xor (a b : Block) : mixColumns (a ^^^ b) = mixColumns a ^^^ mixColumns b :=
  (columnProduct_mixColumns (a ^^^ b)).unique
    ((columnProduct_mixColumns a).xor (columnProduct_mixColumns b))

theorem invMixColumns_xor (a b : Block) :
    invMixColumns (a ^^^ b) = invMixColumns a ^^^ invMixColumns b :=
  (columnProduct_invMixColumns (a ^^^ b)).unique
    ((columnProduct_invMixColumns a).xor (columnProduct_invMixColumns b))

/-! ### The key-mix (R131) -/

theorem addRoundKey_zero (s : Block) : addRoundKey s 0 = s := BitVec.xor_zero

theorem addRoundKey_cancel (s k : Block) : addRoundKey (addRoundKey s k) k = s := by
  rw [addRoundKey, addRoundKey, BitVec.xor_assoc, BitVec.xor_self, BitVec.xor_zero]

theorem mixColumns_addRoundKey (s k : Block) :
    mixColumns (addRoundKey s k) = addRoundKey (mixColumns s) (mixColumns k) := mixColumns_xor s k

theorem invMixColumns_addRoundKey (s k : Block) :
    invMixColumns (addRoundKey s k) = addRoundKey (invMixColumns s) (invMixColumns k) :=
  invMixColumns_xor s k

/-! ### The identities -/

/-- Settles O9, identity by identity. -/
theorem transformIdentities : Obligations.TransformIdentities := fun s a b =>
  ⟨invShiftRows_shiftRows s, invSubBytes_subBytes s, invMixColumns_mixColumns s,
    invMixColumns_xor a b, subBytes_shiftRows s⟩

/-- R127, R128: the byte that each position takes, as `r + 4c` and as the rules' lists have it. -/
theorem rowMaps_eq (j : Fin 16) :
    j.val % 4 + 4 * ((j.val / 4 + j.val % 4) % 4) =
        [0, 5, 10, 15, 4, 9, 14, 3, 8, 13, 2, 7, 12, 1, 6, 11][j] ∧
      j.val % 4 + 4 * ((j.val / 4 + 4 - j.val % 4) % 4) =
        [0, 13, 10, 7, 4, 1, 14, 11, 8, 5, 2, 15, 12, 9, 6, 3][j] := by
  revert j
  decide

/-- R136, R137, R184: the final rounds less their key, one after the other. -/
theorem decLast_encLast (s k : Block) : decLast (addRoundKey (encLast s k) k) 0 = s := by
  rw [encLast, addRoundKey_cancel, decLast, addRoundKey_zero,
    invSubBytes_invShiftRows_subBytes_shiftRows]

theorem encLast_decLast (s k : Block) : encLast (addRoundKey (decLast s k) k) 0 = s := by
  rw [decLast, addRoundKey_cancel, encLast, addRoundKey_zero,
    subBytes_shiftRows_invSubBytes_invShiftRows]

/-- Settles O10: the field operations, the transforms byte by byte, then the cancellations. -/
theorem inverseTransformsCancel : Obligations.InverseTransformsCancel := by
  refine ⟨xtime_eq_ite_msb, fun a => ⟨one_gfMul a, two_gfMul a⟩,
    fun a b c => ⟨gfMul_xtime a c, gfMul_xor_left a b c⟩,
    fun s j => ⟨blockByte_subBytes s j j.isLt, blockByte_invSubBytes s j j.isLt, ?_, ?_⟩,
    fun s => ⟨columnProduct_mixColumns s, columnProduct_invMixColumns s⟩,
    mixColumns_invMixColumns, decLast_encLast, encLast_decLast⟩
  all_goals obtain ⟨hshift, hinv⟩ := rowMaps_eq j
  · rw [blockByte_shiftRows s j j.isLt, hshift]
  · rw [blockByte_invShiftRows s j j.isLt, hinv]

end Sys2Proof.Machine
end

section
/-! The block cipher and its inverse (R138, R139, R141): the states of the two runs correspond round by round, whatever
the encryption round keys are. -/

namespace Sys2Proof.Machine

section Runs

variable (ek : Nat → Block) (nr : Nat)

theorem decKeys_zero : decKeys ek nr 0 = ek nr := if_pos rfl

theorem decKeys_last : decKeys ek nr nr = ek 0 := by
  by_cases h : nr = 0
  · rw [h, decKeys_zero]
  · rw [decKeys, if_neg h, if_neg (lt_irrefl nr)]

/-- R135: round `i` of the one run and round `j` of the other use the same round key. -/
theorem decKeys_middle {i j : Nat} (hi : 0 < i) (hj : 0 < j) (h : i + j = nr) :
    decKeys ek nr i = invMixColumns (ek j) := by
  rw [decKeys, if_neg (by omega), if_pos (by omega), show nr - i = j by omega]

/-! ### One round against the other -/

/-- R136, R137: a full inverse round takes a forward round off the substituted and shifted state. -/
theorem decRound_encRound (s k : Block) :
    decRound (subBytes (shiftRows (encRound s k))) (invMixColumns k) = subBytes (shiftRows s) := by
  rw [decRound, encRound, invSubBytes_invShiftRows_subBytes_shiftRows, invMixColumns_addRoundKey,
    addRoundKey_cancel, invMixColumns_mixColumns]

theorem encRound_decRound (s k : Block) :
    encRound (invSubBytes (invShiftRows (decRound s (invMixColumns k)))) k =
      invSubBytes (invShiftRows s) := by
  rw [encRound, decRound, subBytes_shiftRows_invSubBytes_invShiftRows, mixColumns_addRoundKey,
    mixColumns_invMixColumns, mixColumns_invMixColumns, addRoundKey_cancel]

/-! ### The two runs -/

/-- InvCipher after `r` rounds holds what Cipher had after all but `r`, substituted and shifted. -/
theorem invCipherState_cipher (p : Block) {r q : Nat} (h : r + q = nr - 1) :
    invCipherState (decKeys ek nr) (cipher ek nr p) r =
      subBytes (shiftRows (cipherState ek p q)) := by
  induction r generalizing q with
  | zero =>
    obtain rfl : q = nr - 1 := by omega
    rw [invCipherState, decKeys_zero, cipher, encLast, addRoundKey_cancel]
  | succ r ih =>
    rw [invCipherState, ih (q := q + 1) (by omega), cipherState,
      decKeys_middle ek nr (j := q + 1) (by omega) (by omega) (by omega), decRound_encRound]

/-- Cipher after `r` rounds holds what InvCipher had after all but `r`, shifted back and substituted back. -/
theorem cipherState_invCipher (c : Block) {r q : Nat} (h : r + q = nr - 1) :
    cipherState ek (invCipher (decKeys ek nr) nr c) r =
      invSubBytes (invShiftRows (invCipherState (decKeys ek nr) c q)) := by
  induction r generalizing q with
  | zero =>
    obtain rfl : q = nr - 1 := by omega
    rw [cipherState, invCipher, decKeys_last, decLast, addRoundKey_cancel]
  | succ r ih =>
    rw [cipherState, ih (q := q + 1) (by omega), invCipherState,
      decKeys_middle ek nr (j := r + 1) (by omega) (by omega) (by omega), encRound_decRound]

theorem invCipher_cipher (p : Block) : invCipher (decKeys ek nr) nr (cipher ek nr p) = p := by
  rw [invCipher, invCipherState_cipher ek nr p (q := 0) (by omega), decKeys_last, decLast,
    invSubBytes_invShiftRows_subBytes_shiftRows, cipherState, addRoundKey_cancel]

theorem cipher_invCipher (c : Block) : cipher ek nr (invCipher (decKeys ek nr) nr c) = c := by
  rw [cipher, cipherState_invCipher ek nr c (q := 0) (by omega), encLast,
    subBytes_shiftRows_invSubBytes_invShiftRows, invCipherState, decKeys_zero, addRoundKey_cancel]

end Runs

/-- Settles O11: the round trips hold for all round keys, hence for the expanded key. -/
theorem cipherRoundTrip : Obligations.CipherRoundTrip := fun _ _ _ p =>
  ⟨invCipher_cipher _ _ p, cipher_invCipher _ _ p⟩

end Sys2Proof.Machine
end

section
/-! The words of the key schedule (R132 to R134), read out of the round keys. -/

namespace Sys2Proof.Machine

/-! ### SubWord, RotWord and the round constants (R132, R133) -/

theorem subWord_wordOfBytes (f : Nat → Byte) :
    subWord (wordOfBytes f) = wordOfBytes fun k => sbox (f k) :=
  word_ext fun k hk => by
    rw [wordByte_subWord _ k hk, wordByte_wordOfBytes f k hk, wordByte_wordOfBytes _ k hk]

theorem rotWord_wordOfBytes (f : Nat → Byte) :
    rotWord (wordOfBytes f) = wordOfBytes fun k => f ((k + 1) % 4) :=
  word_ext fun k hk => by
    rw [wordByte_rotWord _ k hk, wordByte_wordOfBytes f _ (by omega), wordByte_wordOfBytes _ k hk]

theorem roundConst_succ {i : Nat} (h : 1 ≤ i) : roundConst (i + 1) = xtime (roundConst i) := by
  obtain ⟨j, rfl⟩ := Nat.exists_eq_add_of_le' h
  rfl

/-! ### The loop (R134) -/

section Loop

variable (key : Nat → Byte) (nk : Nat) {i : Nat}

/-- Word `i` of the round keys is word `i` of the loop, however far the loop has run past it. -/
theorem getD_scheduleWords_eq_expandedWord {n : Nat} (hi : i < n) (hn : n ≤ 4 * (nk + 7)) :
    (scheduleWords key nk n).getD i 0 = expandedWord key nk i := by
  rw [expandedWord, blockWord_keyExpansion key nk _ _ (Nat.mod_lt i (by decide)),
    Nat.div_add_mod, getD_scheduleWords_of_le key nk hi hn]

theorem expandedWord_eq_nextScheduleWord (h : i < 4 * (nk + 7)) :
    expandedWord key nk i = nextScheduleWord key nk i (scheduleWords key nk i) := by
  rw [← getD_scheduleWords_eq_expandedWord key nk h le_rfl, getD_scheduleWords key nk h]

theorem wordByte_expandedWord_of_lt (h : i < nk) {k : Nat} (hk : k < 4) :
    wordByte (expandedWord key nk i) k = key (4 * i + k) := by
  rw [expandedWord_eq_nextScheduleWord key nk (by omega), nextScheduleWord, if_pos h,
    wordByte_wordOfBytes _ k hk]

theorem expandedWord_of_le (hnk : 0 < nk) (hi : nk ≤ i) (h : i < 4 * (nk + 7)) :
    expandedWord key nk i =
      expandedWord key nk (i - nk) ^^^ scheduleTemp nk i (expandedWord key nk (i - 1)) := by
  rw [expandedWord_eq_nextScheduleWord key nk h, nextScheduleWord, if_neg (by omega),
    getD_scheduleWords_eq_expandedWord key nk (by omega) h.le,
    getD_scheduleWords_eq_expandedWord key nk (by omega) h.le]

end Loop

/-- Settles O12: the parts of the loop's body one by one, then the loop. -/
theorem keyExpansionFollowsTheLoop : Obligations.KeyExpansionFollowsTheLoop := by
  refine ⟨fun a0 a1 a2 a3 => ⟨?sub, ?rot⟩, by decide, fun _ => roundConst_succ, fun _ => rfl,
    fun key nk hnk => ⟨fun i hi k hk => wordByte_expandedWord_of_lt key nk hi hk,
      fun i hi h => expandedWord_of_le key nk (by omega) hi h⟩⟩
  case sub => exact subWord_wordOfBytes ([a0, a1, a2, a3].getD · 0)
  case rot => exact rotWord_wordOfBytes ([a0, a1, a2, a3].getD · 0)

end Sys2Proof.Machine
end

section
/-! The block commands case by case, with their frames (R161 to R164): what a command is in each branch of its
pseudocode, and what the branch that completes leaves. -/

namespace Sys2Proof.Machine

/-! ### A command that writes one operand register -/

theorem onlyVChanges_move (s : State) (vd : VReg) (b : Block) :
    OnlyVChanges vd s (s.writeV vd b).done :=
  ⟨fun _ hj => readV_writeV_other s b hj, ⟨rfl, rfl, rfl, rfl, rfl, rfl⟩, fun _ => rfl, rfl,
    rfl, rfl, rfl, rfl⟩

theorem writesV_of_exec {i : Instr} {s : State} {vd : VReg} {b : Block}
    (h : exec i s = .next (s.writeV vd b).done) : WritesV i s vd b :=
  ⟨_, h, readV_writeV_same s vd b, rfl, onlyVChanges_move s vd b⟩

/-! ### ENCB and DECB (R162, R163) -/

theorem exec_encb_context {s : State} (hv : s.schedValid = true) (vd vs : VReg) :
    exec (.encb vd vs) s = .next (s.writeV vd (s.encryptBlock (s.readV vs))).done :=
  congrArg Host.Outcome.next (if_neg (by simp [hv]))

theorem exec_encb_noContext {s : State} (hv : s.schedValid = false) (vd vs : VReg) :
    exec (.encb vd vs) s = .next (s.raise .noSchedule) :=
  congrArg Host.Outcome.next (if_pos (by simp [hv]))

theorem exec_decb_context {s : State} (hv : s.schedValid = true) (vd vs : VReg) :
    exec (.decb vd vs) s = .next (s.writeV vd (s.decryptBlock (s.readV vs))).done :=
  congrArg Host.Outcome.next (if_neg (by simp [hv]))

theorem exec_decb_noContext {s : State} (hv : s.schedValid = false) (vd vs : VReg) :
    exec (.decb vd vs) s = .next (s.raise .noSchedule) :=
  congrArg Host.Outcome.next (if_pos (by simp [hv]))

/-- Settles O16: the two branches, the first with the frame of a register written. -/
theorem encbCommand : Obligations.EncbCommand := by
  intro vd vs s
  split_ifs with hv
  · exact writesV_of_exec (exec_encb_context hv vd vs)
  · exact exec_encb_noContext (Bool.eq_false_of_not_eq_true hv) vd vs

/-- Settles O17, with ENCB's frame. -/
theorem decbCommand : Obligations.DecbCommand := by
  intro vd vs s
  split_ifs with hv
  · exact writesV_of_exec (exec_decb_context hv vd vs)
  · exact exec_decb_noContext (Bool.eq_false_of_not_eq_true hv) vd vs

/-! ### ZEROIZE (R164) -/

/-- Settles O19, each piece of state by its own reading lemma. -/
theorem zeroizeCommand : Obligations.ZeroizeCommand := fun s =>
  ⟨s.eraseKeys.done, rfl, fun j _ => eraseKeys_keyByte s j,
    fun r _ => ⟨eraseKeys_ekAt s r, eraseKeys_dkAt s r⟩, eraseKeys_readV s, rfl, rfl, rfl, rfl,
    fun _ => rfl, rfl, rfl, rfl, rfl, rfl⟩

/-! ### DERIVE (R161) -/

theorem exec_derive_badLength {klen : Nat} (hk : ¬(klen = 16 ∨ klen = 24 ∨ klen = 32)) (s : State) :
    exec (.derive klen) s = .next (s.raise .invalidKeySize) :=
  congrArg Host.Outcome.next (if_pos (by rwa [Bool.not_eq_true', ← Bool.not_eq_true, validKlen_iff]))

theorem exec_derive_context {klen : Nat} (hk : klen = 16 ∨ klen = 24 ∨ klen = 32) {s : State}
    (hv : s.schedValid = true) : exec (.derive klen) s = .next (s.raise .contextActive) := by
  rw [exec, execDerive, if_neg (by simpa [validKlen_iff] using hk), if_pos hv]

theorem exec_derive_noContext {klen : Nat} (hk : klen = 16 ∨ klen = 24 ∨ klen = 32) {s : State}
    (hv : s.schedValid = false) :
    exec (.derive klen) s =
      .next (s.installContext (BitVec.ofNat 8 (klen / 4 + 6)) (BitVec.ofNat 8 klen)
        (encSlots s.keyByte klen) (decSlots s.keyByte klen)).done := by
  rw [exec, execDerive, if_neg (by simpa [validKlen_iff] using hk), if_neg (by simp [hv])]

/-- R35: the sizes of a context fit STATUS.KLEN and STATUS.NR. -/
theorem toNat_contextSizes {klen : Nat} (hk : klen = 16 ∨ klen = 24 ∨ klen = 32) :
    (BitVec.ofNat 8 klen).toNat = klen ∧
      (BitVec.ofNat 8 (klen / 4 + 6)).toNat = klen / 4 + 6 := by
  rcases hk with rfl | rfl | rfl <;> exact ⟨rfl, rfl⟩

theorem slot_padSchedule_of_lt (nr : Nat) (ks : Nat → Block) {r : Nat} (hr : r < 15) :
    slot (padSchedule nr ks) r = if r ≤ nr then ks r else 0 := by
  simp [slot_padSchedule, hr]

/-- Settles O14: the three branches, the last with the slots of the two padded schedules. -/
theorem deriveCommand : Obligations.DeriveCommand := by
  intro klen s
  split_ifs with hk hv
  · exact exec_derive_context hk hv
  · obtain ⟨hklen, hnr⟩ := toNat_contextSizes hk
    exact ⟨_, exec_derive_noContext hk (Bool.eq_false_of_not_eq_true hv), rfl, rfl, hklen, hnr,
      fun r hr => slot_padSchedule_of_lt _ _ hr, fun r hr => slot_padSchedule_of_lt _ _ hr,
      rfl, fun _ => rfl, fun _ => rfl, rfl, rfl, rfl, rfl, rfl⟩
  · exact exec_derive_badLength hk s

/-! ### VLDRK and PKTDEC, the other two commands that read round keys (R188, R213) -/

theorem exec_vldrk_noContext {s : State} (hv : s.schedValid = false) (vd : VReg)
    (sel : RoundKeySel) (idx : Nat) : exec (.vldrk vd sel idx) s = .next (s.raise .noSchedule) :=
  congrArg Host.Outcome.next (if_pos (by simp [hv]))

theorem exec_vldrk_badIndex {s : State} (hv : s.schedValid = true) (vd : VReg) (sel : RoundKeySel)
    {idx : Nat} (hi : s.nr.toNat < idx) :
    exec (.vldrk vd sel idx) s = .next (s.raise .badIndex) := by
  rw [exec, execVldrk, if_neg (by simp [hv]), if_pos hi]

theorem exec_vldrk_context {s : State} (hv : s.schedValid = true) (vd : VReg) (sel : RoundKeySel)
    {idx : Nat} (hi : idx ≤ s.nr.toNat) :
    exec (.vldrk vd sel idx) s = .next (s.writeV vd (s.roundKey sel idx)).done := by
  rw [exec, execVldrk, if_neg (by simp [hv]), if_neg (Nat.not_lt.mpr hi)]

section Pktdec

variable {s : State}

theorem exec_pktdec_unsynced (hsync : (parseHeader s.mem).syncOk = false) :
    exec .pktdec s = .next ((s.setResult 0).raise .badSync) := by
  simp [exec, execPktdec, hsync]

variable (hsync : (parseHeader s.mem).syncOk = true)

include hsync

theorem exec_pktdec_skipped (hscr : (parseHeader s.mem).scrambled = false) :
    exec .pktdec s = .next (s.setResult ((parseHeader s.mem).pack false)).done := by
  simp [exec, execPktdec, hsync, hscr]

variable (hscr : (parseHeader s.mem).scrambled = true)

include hscr

theorem exec_pktdec_noContext (hv : s.schedValid = false) :
    exec .pktdec s = .next ((s.setResult ((parseHeader s.mem).pack false)).raise .noSchedule) := by
  simp [exec, execPktdec, hsync, hscr, hv]

theorem exec_pktdec_context (hv : s.schedValid = true) :
    exec .pktdec s =
      .next ((s.setMem (clearScrambling (mapPayload s.decryptBlock s.mem
        (parseHeader s.mem).poff (parseHeader s.mem).nblk))).setResult
          ((parseHeader s.mem).pack true)).done := by
  simp [exec, execPktdec, hsync, hscr, hv]

end Pktdec

end Sys2Proof.Machine
end

section
/-! What the schedule and the cipher read (R134, R135, R138, R139): the key's first bytes, and round keys up to `nr`. -/

namespace Sys2Proof.Machine

/-! ### The key bytes of a schedule -/

section KeyBytes

variable {key key' : Nat → Byte} {nk : Nat}

theorem scheduleWords_congr (h : ∀ j < 4 * nk, key j = key' j) (n : Nat) :
    scheduleWords key nk n = scheduleWords key' nk n := by
  induction n with
  | zero => rfl
  | succ n ih =>
    have hword : nextScheduleWord key nk n = nextScheduleWord key' nk n := by
      funext w
      unfold nextScheduleWord
      split_ifs with hn
      · exact wordOfBytes_congr fun k hk => h _ (by omega)
      · rfl
    rw [scheduleWords, scheduleWords, ih, hword]

theorem keyExpansion_congr (h : ∀ j < 4 * nk, key j = key' j) :
    keyExpansion key nk = keyExpansion key' nk := by
  funext r
  rw [keyExpansion, keyExpansion, scheduleWords_congr h]

end KeyBytes

/-- Settles O15: the two schedules are functions of the expanded key, whose words read the bytes below `klen`. -/
theorem deriveIgnoresBytesPastKlen : Obligations.DeriveIgnoresBytesPastKlen := by
  intro klen s s' t t' hk hs hs' hbytes h h'
  rw [exec_derive_noContext hk hs] at h
  rw [exec_derive_noContext hk hs'] at h'
  have hexp : keyExpansion s.keyByte (klen / 4) = keyExpansion s'.keyByte (klen / 4) :=
    keyExpansion_congr fun j hj => hbytes j (by omega)
  cases h
  cases h'
  exact ⟨congrArg (padSchedule (klen / 4 + 6)) hexp,
    congrArg (fun ks => padSchedule (klen / 4 + 6) (decKeys ks (klen / 4 + 6))) hexp⟩

/-! ### The round keys of a cipher -/

section RoundKeys

variable {ks ks' : Nat → Block} {nr : Nat}

theorem cipherState_congr (p : Block) (h : ∀ r ≤ nr, ks r = ks' r) :
    cipherState ks p nr = cipherState ks' p nr := by
  induction nr with
  | zero => rw [cipherState, cipherState, h 0 le_rfl]
  | succ n ih => rw [cipherState, cipherState, ih fun r hr => h r (by omega), h (n + 1) le_rfl]

theorem cipher_congr (p : Block) (h : ∀ r ≤ nr, ks r = ks' r) :
    cipher ks nr p = cipher ks' nr p := by
  rw [cipher, cipher, cipherState_congr p fun r hr => h r (by omega), h nr le_rfl]

theorem invCipherState_congr (c : Block) (h : ∀ r ≤ nr, ks r = ks' r) :
    invCipherState ks c nr = invCipherState ks' c nr := by
  induction nr with
  | zero => rw [invCipherState, invCipherState, h 0 le_rfl]
  | succ n ih =>
    rw [invCipherState, invCipherState, ih fun r hr => h r (by omega), h (n + 1) le_rfl]

theorem invCipher_congr (c : Block) (h : ∀ r ≤ nr, ks r = ks' r) :
    invCipher ks nr c = invCipher ks' nr c := by
  rw [invCipher, invCipher, invCipherState_congr c fun r hr => h r (by omega), h nr le_rfl]

theorem decKeys_congr (h : ∀ r ≤ nr, ks r = ks' r) (i : Nat) :
    decKeys ks nr i = decKeys ks' nr i := by
  rw [decKeys, decKeys, h nr le_rfl, h (nr - i) (by omega), h 0 (by omega)]

end RoundKeys

/-! ### The round keys of a context (R40) -/

/-- In a context EK holds the expanded key in the slots 0 .. NR. -/
theorem ekAt_of_contextOk {s : State} (hs : s.contextOk) (hv : s.schedValid = true) {r : Nat}
    (hr : r ≤ s.nr.toNat) : s.ekAt r = keyExpansion s.keyByte (s.klen.toNat / 4) r := by
  rw [State.contextOk, if_pos hv] at hs
  obtain ⟨hk, hnr, hek, -⟩ := hs
  rw [validKlen_iff] at hk
  rw [State.ekAt, hek, encSlots, slot_padSchedule, if_pos (by omega)]

/-- R135: in a context DK holds the decryption round keys of EK in the slots 0 .. NR. -/
theorem dkAt_of_contextOk {s : State} (hs : s.contextOk) (hv : s.schedValid = true) {r : Nat}
    (hr : r ≤ s.nr.toNat) : s.dkAt r = decKeys s.ekAt s.nr.toNat r := by
  rw [decKeys_congr (fun _ => ekAt_of_contextOk hs hv)]
  rw [State.contextOk, if_pos hv] at hs
  obtain ⟨hk, hnr, -, hdk⟩ := hs
  rw [validKlen_iff] at hk
  rw [State.dkAt, hdk, decSlots, slot_padSchedule, if_pos (by omega), hnr]

theorem decryptBlock_of_contextOk {s : State} (hs : s.contextOk) (hv : s.schedValid = true)
    (c : Block) : s.decryptBlock c = invCipher (decKeys s.ekAt s.nr.toNat) s.nr.toNat c :=
  invCipher_congr c fun _ => dkAt_of_contextOk hs hv

theorem decryptBlock_encryptBlock {s : State} (hs : s.contextOk) (hv : s.schedValid = true)
    (p : Block) : s.decryptBlock (s.encryptBlock p) = p := by
  rw [decryptBlock_of_contextOk hs hv, State.encryptBlock, invCipher_cipher]

theorem encryptBlock_decryptBlock {s : State} (hs : s.contextOk) (hv : s.schedValid = true)
    (c : Block) : s.encryptBlock (s.decryptBlock c) = c := by
  rw [decryptBlock_of_contextOk hs hv, State.encryptBlock, cipher_invCipher]

/-- Settles O18: a register written is no part of the context, so the second command works under the first one's. -/
theorem decbUndoesEncb : Obligations.DecbUndoesEncb := by
  intro s va vb vc hs hv
  refine ⟨⟨_, _, exec_encb_context hv vb va, exec_decb_context (by exact hv) vc vb, ?_, rfl⟩,
    ⟨_, _, exec_decb_context hv vb va, exec_encb_context (by exact hv) vc vb, ?_, rfl⟩⟩
  · simp [decryptBlock_encryptBlock hs hv]
  · simp [encryptBlock_decryptBlock hs hv]

end Sys2Proof.Machine
end

section
/-! What has no part in a command (R165, R166): the cipher path in all but the primitives, and round keys above NR, or
without a context, in all. Replacing it before the command gives what replacing it after the command does. -/

namespace Sys2Proof.Machine

/-! ### The cipher path (R165) -/

/-- The state with CAP.HWPATH replaced. -/
def State.withPath (path : Bool) (s : State) : State := { s with hwpath := path }

/-- R165: a command that is no primitive branches on the rest of the state alone. -/
theorem exec_withPath {i : Instr} (hi : i.primitive = false) (path : Bool) (s : State) :
    exec i (s.withPath path) = mapNext (State.withPath path) (exec i s) := by
  cases i with
  | derive klen =>
    refine congrArg Host.Outcome.next ?_
    rw [apply_ite (State.withPath path), apply_ite (State.withPath path)]
    rfl
  | encb vd vs =>
    refine congrArg Host.Outcome.next ?_
    rw [apply_ite (State.withPath path)]
    rfl
  | decb vd vs =>
    refine congrArg Host.Outcome.next ?_
    rw [apply_ite (State.withPath path)]
    rfl
  | zeroize => rfl
  | pktdec =>
    refine congrArg Host.Outcome.next ?_
    rw [apply_ite (State.withPath path), apply_ite (State.withPath path),
      apply_ite (State.withPath path)]
    rfl
  | pktchk =>
    refine congrArg Host.Outcome.next ?_
    rw [apply_ite (State.withPath path)]
    rfl
  | vxor vd vs1 vs2 => rfl
  | vldrk vd sel idx =>
    refine congrArg Host.Outcome.next ?_
    rw [apply_ite (State.withPath path), apply_ite (State.withPath path)]
    rfl
  | _ => cases hi

/-- Settles O20: `t` is what `exec` answers with, so replacing the path in it replaces it in the answer. -/
theorem pathsAreEquivalent : Obligations.PathsAreEquivalent := fun _ s _ path hi h =>
  (exec_withPath hi path s).trans (congrArg (mapNext (State.withPath path)) h)

/-! ### Round keys above NR (R166) -/

/-- The state with both schedules replaced. -/
def State.withSchedules (ek dk : Vector Block 15) (s : State) : State := { s with ek := ek, dk := dk }

section Schedules

variable {ek dk : Vector Block 15} {s : State}

/-- The schedules `ek` and `dk` agree with those of `s` wherever `s` has a round key in use. -/
def AgreeInUse (s : State) (ek dk : Vector Block 15) : Prop :=
  s.schedValid = true → ∀ r ≤ s.nr.toNat, slot ek r = s.ekAt r ∧ slot dk r = s.dkAt r

variable (h : AgreeInUse s ek dk)

include h

theorem encryptBlock_withSchedules (hv : s.schedValid = true) :
    (s.withSchedules ek dk).encryptBlock = s.encryptBlock :=
  funext fun p => cipher_congr p fun r hr => (h hv r hr).1

theorem decryptBlock_withSchedules (hv : s.schedValid = true) :
    (s.withSchedules ek dk).decryptBlock = s.decryptBlock :=
  funext fun c => invCipher_congr c fun r hr => (h hv r hr).2

theorem roundKey_withSchedules (hv : s.schedValid = true) (sel : RoundKeySel) {idx : Nat}
    (hi : idx ≤ s.nr.toNat) :
    (s.withSchedules ek dk).roundKey sel idx = s.roundKey sel idx := by
  cases sel with
  | ek => exact (h hv idx hi).1
  | dk => exact (h hv idx hi).2

theorem exec_encb_withSchedules (vd vs : VReg) :
    exec (.encb vd vs) (s.withSchedules ek dk) =
      mapNext (State.withSchedules ek dk) (exec (.encb vd vs) s) := by
  cases hv : s.schedValid with
  | true =>
    rw [exec_encb_context hv, exec_encb_context (s := s.withSchedules ek dk) hv,
      encryptBlock_withSchedules h hv]
    rfl
  | false =>
    rw [exec_encb_noContext hv, exec_encb_noContext (s := s.withSchedules ek dk) hv]
    rfl

theorem exec_decb_withSchedules (vd vs : VReg) :
    exec (.decb vd vs) (s.withSchedules ek dk) =
      mapNext (State.withSchedules ek dk) (exec (.decb vd vs) s) := by
  cases hv : s.schedValid with
  | true =>
    rw [exec_decb_context hv, exec_decb_context (s := s.withSchedules ek dk) hv,
      decryptBlock_withSchedules h hv]
    rfl
  | false =>
    rw [exec_decb_noContext hv, exec_decb_noContext (s := s.withSchedules ek dk) hv]
    rfl

theorem exec_vldrk_withSchedules (vd : VReg) (sel : RoundKeySel) (idx : Nat) :
    exec (.vldrk vd sel idx) (s.withSchedules ek dk) =
      mapNext (State.withSchedules ek dk) (exec (.vldrk vd sel idx) s) := by
  cases hv : s.schedValid with
  | false =>
    rw [exec_vldrk_noContext hv, exec_vldrk_noContext (s := s.withSchedules ek dk) hv]
    rfl
  | true =>
    rcases Nat.lt_or_ge s.nr.toNat idx with hi | hi
    · rw [exec_vldrk_badIndex hv vd sel hi,
        exec_vldrk_badIndex (s := s.withSchedules ek dk) hv vd sel hi]
      rfl
    · rw [exec_vldrk_context hv vd sel hi, exec_vldrk_context (s := s.withSchedules ek dk) hv vd sel hi,
        roundKey_withSchedules h hv sel hi]
      rfl

theorem exec_pktdec_withSchedules :
    exec .pktdec (s.withSchedules ek dk) =
      mapNext (State.withSchedules ek dk) (exec .pktdec s) := by
  cases hsync : (parseHeader s.mem).syncOk with
  | false =>
    rw [exec_pktdec_unsynced hsync, exec_pktdec_unsynced (s := s.withSchedules ek dk) hsync]
    rfl
  | true =>
  cases hscr : (parseHeader s.mem).scrambled with
  | false =>
    rw [exec_pktdec_skipped hsync hscr,
      exec_pktdec_skipped (s := s.withSchedules ek dk) hsync hscr]
    rfl
  | true =>
  cases hv : s.schedValid with
  | false =>
    rw [exec_pktdec_noContext hsync hscr hv,
      exec_pktdec_noContext (s := s.withSchedules ek dk) hsync hscr hv]
    rfl
  | true =>
    rw [exec_pktdec_context hsync hscr hv,
      exec_pktdec_context (s := s.withSchedules ek dk) hsync hscr hv,
      decryptBlock_withSchedules h hv]
    rfl

end Schedules

theorem primitive_withSchedules (ek dk : Vector Block 15) (s : State) (vd : VReg) (b : Block) :
    (s.withSchedules ek dk).primitive vd b = (s.primitive vd b).withSchedules ek dk := by
  rw [State.primitive, State.primitive, apply_ite (State.withSchedules ek dk)]
  rfl

/-- R166: of the commands that do not write round keys, four read them, each past its check of SCHED_VALID. -/
theorem exec_withSchedules {i : Instr} {s : State} {ek dk : Vector Block 15}
    (hd : ∀ klen, i ≠ .derive klen) (hz : i ≠ .zeroize) (h : AgreeInUse s ek dk) :
    exec i (s.withSchedules ek dk) = mapNext (State.withSchedules ek dk) (exec i s) := by
  cases i with
  | derive klen => exact absurd rfl (hd klen)
  | encb vd vs => exact exec_encb_withSchedules h vd vs
  | decb vd vs => exact exec_decb_withSchedules h vd vs
  | zeroize => exact absurd rfl hz
  | pktdec => exact exec_pktdec_withSchedules h
  | pktchk =>
    refine congrArg Host.Outcome.next ?_
    rw [apply_ite (State.withSchedules ek dk)]
    rfl
  | aesenc vd vs1 vs2 => exact congrArg Host.Outcome.next (primitive_withSchedules ..)
  | aesenclast vd vs1 vs2 => exact congrArg Host.Outcome.next (primitive_withSchedules ..)
  | aesdec vd vs1 vs2 => exact congrArg Host.Outcome.next (primitive_withSchedules ..)
  | aesdeclast vd vs1 vs2 => exact congrArg Host.Outcome.next (primitive_withSchedules ..)
  | aesimc vd vs => exact congrArg Host.Outcome.next (primitive_withSchedules ..)
  | aeskeygenassist vd vs rcon => exact congrArg Host.Outcome.next (primitive_withSchedules ..)
  | vxor vd vs1 vs2 => rfl
  | vldrk vd sel idx => exact exec_vldrk_withSchedules h vd sel idx

/-- Settles O21, as for the path: the hypothesis on the slots is `AgreeInUse`. -/
theorem roundKeysAboveNrAreNotRead : Obligations.RoundKeysAboveNrAreNotRead :=
  fun _ _ _ ek dk hd hz hagree h =>
    (exec_withSchedules hd hz hagree).trans (congrArg (mapNext (State.withSchedules ek dk)) h)

end Sys2Proof.Machine
end

section
/-! The round primitives and the data moves (R180 to R188): which path a primitive needs and what it reads, and the
bytes and words of their results. -/

namespace Sys2Proof.Machine

/-! ### What the six primitives share (R180) -/

/-- R180: a primitive computes a block from V alone, and all six write it, or raise, in the one way. -/
theorem exec_eq_primitive {i : Instr} (hi : i.primitive = true) :
    ∃ (vd : VReg) (f : (VReg → Block) → Block),
      ∀ s : State, exec i s = .next (s.primitive vd (f s.readV)) := by
  cases i with
  | aesenc vd vs1 vs2 => exact ⟨vd, fun v => encRound (v vs1) (v vs2), fun _ => rfl⟩
  | aesenclast vd vs1 vs2 => exact ⟨vd, fun v => encLast (v vs1) (v vs2), fun _ => rfl⟩
  | aesdec vd vs1 vs2 => exact ⟨vd, fun v => decRound (v vs1) (v vs2), fun _ => rfl⟩
  | aesdeclast vd vs1 vs2 => exact ⟨vd, fun v => decLast (v vs1) (v vs2), fun _ => rfl⟩
  | aesimc vd vs => exact ⟨vd, fun v => invMixColumns (v vs), fun _ => rfl⟩
  | aeskeygenassist vd vs rcon => exact ⟨vd, fun v => keyGenAssist (v vs) rcon, fun _ => rfl⟩
  | _ => cases hi

theorem primitive_hardware {s : State} (hp : s.hwpath = true) (vd : VReg) (b : Block) :
    s.primitive vd b = (s.writeV vd b).done := if_pos hp

theorem writesV_of_primitive {i : Instr} {s : State} {vd : VReg} {b : Block}
    (hp : s.hwpath = true) (h : exec i s = .next (s.primitive vd b)) : WritesV i s vd b :=
  writesV_of_exec (h.trans (congrArg Host.Outcome.next (primitive_hardware hp vd b)))

/-- Settles O22: a context replaced leaves V and the path, which are all that a primitive reads. -/
theorem primitivesNeedTheHardwarePath : Obligations.PrimitivesNeedTheHardwarePath := by
  intro i s hi
  obtain ⟨vd, f, hf⟩ := exec_eq_primitive hi
  have hexec : ∀ u : State, u.hwpath = true →
      exec i u = .next (u.writeV vd (f u.readV)).done := fun u hu =>
    (hf u).trans (congrArg Host.Outcome.next (primitive_hardware hu vd _))
  exact ⟨fun hp => exec_primitive_portable hi hp,
    fun hp => ⟨_, hexec s hp, rfl, fun ek dk nr klen valid => hexec _ hp⟩⟩

/-- Settles O23, command by command on each path. -/
theorem Primitives.roundCommands : Obligations.RoundCommands := by
  intro vd vs1 vs2 s
  split_ifs with hp
  · exact ⟨writesV_of_primitive hp rfl, writesV_of_primitive hp rfl, writesV_of_primitive hp rfl,
      writesV_of_primitive hp rfl⟩
  · rw [Bool.not_eq_true] at hp
    exact ⟨exec_primitive_portable rfl hp, exec_primitive_portable rfl hp,
      exec_primitive_portable rfl hp, exec_primitive_portable rfl hp⟩

/-! ### KeyGenAssist word by word and byte by byte (R140) -/

/-- R140: words `2h` and `2h + 1` of the assist come from word `2h + 1` of the block. -/
theorem blockWord_keyGenAssist (s : Block) (rcon : Byte) {h : Nat} (hh : h < 2) :
    blockWord (keyGenAssist s rcon) (2 * h) = subWord (blockWord s (2 * h + 1)) ∧
      blockWord (keyGenAssist s rcon) (2 * h + 1) =
        rotWord (subWord (blockWord s (2 * h + 1))) ^^^ rconWord rcon := by
  unfold keyGenAssist
  rw [blockWord_blockOfWords _ _ (by omega), blockWord_blockOfWords _ _ (by omega)]
  obtain rfl | rfl : h = 0 ∨ h = 1 := by omega
  · exact ⟨rfl, rfl⟩
  · exact ⟨rfl, rfl⟩

theorem blockByte_keyGenAssist (s : Block) (rcon : Byte) {h k : Nat} (hh : h < 2) (hk : k < 4) :
    blockByte (keyGenAssist s rcon) (4 * (2 * h) + k) =
        sbox (blockByte s (4 * (2 * h + 1) + k)) ∧
      blockByte (keyGenAssist s rcon) (4 * (2 * h + 1) + k) =
        sbox (blockByte s (4 * (2 * h + 1) + (k + 1) % 4)) ^^^ (if k = 0 then rcon else 0) := by
  have hk' : (k + 1) % 4 < 4 := Nat.mod_lt _ (by decide)
  obtain ⟨heven, hodd⟩ := blockWord_keyGenAssist s rcon hh
  constructor
  · rw [← wordByte_blockWord _ _ k hk, heven, wordByte_subWord _ k hk, wordByte_blockWord _ _ k hk]
  · rw [← wordByte_blockWord _ _ k hk, hodd, wordByte_xor, wordByte_rotWord _ k hk,
      wordByte_subWord _ _ hk', wordByte_blockWord _ _ _ hk', wordByte_rconWord _ k hk]

/-- R140: the sixteen bytes, each half of the block from its odd word. -/
theorem bytes_keyGenAssist (s : Block) (rcon : Byte) :
    (List.range 16).map (blockByte (keyGenAssist s rcon)) = AssistBytes s rcon := by
  have hbytes := fun (h : Fin 2) (k : Fin 4) => blockByte_keyGenAssist s rcon h.isLt k.isLt
  simp [Fin.forall_fin_succ] at hbytes
  simp [List.range_succ, AssistBytes, hbytes]

/-- Settles O24: the two results, then the two commands on each path. -/
theorem keyScheduleCommands : Obligations.KeyScheduleCommands := by
  intro vd vs rcon s
  refine ⟨columnProduct_invMixColumns _, bytes_keyGenAssist _ rcon, ?_⟩
  split_ifs with hp
  · exact ⟨writesV_of_primitive hp rfl, writesV_of_primitive hp rfl⟩
  · rw [Bool.not_eq_true] at hp
    exact ⟨exec_primitive_portable rfl hp, exec_primitive_portable rfl hp⟩

/-! ### The data moves (R187, R188) -/

theorem exec_vxor (vd vs1 vs2 : VReg) (s : State) :
    exec (.vxor vd vs1 vs2) s =
      .next (s.writeV vd (addRoundKey (s.readV vs1) (s.readV vs2))).done := rfl

/-- Settles O25, from the block that VXOR writes. -/
theorem vxorCommand : Obligations.VxorCommand := by
  intro vd vs1 vs2 s
  obtain ⟨t, ht, hread, herr, hframe⟩ := writesV_of_exec (exec_vxor vd vs1 vs2 s)
  refine ⟨t, ht, herr, hframe, fun j _ => ?bytes, ?equal⟩
  case bytes => rw [hread, addRoundKey, blockByte_xor]
  case equal =>
    rintro rfl
    rw [hread]
    exact BitVec.xor_self

theorem roundKey_eq_ite (s : State) (sel : RoundKeySel) (idx : Nat) :
    s.roundKey sel idx = if sel = .dk then s.dkAt idx else s.ekAt idx := by
  cases sel <;> rfl

/-- Settles O26, branch by branch. -/
theorem vldrkCommand : Obligations.VldrkCommand := by
  intro vd sel idx s
  rw [← roundKey_eq_ite]
  split_ifs with hv hi
  · exact exec_vldrk_badIndex hv vd sel hi
  · exact writesV_of_exec (exec_vldrk_context hv vd sel (Nat.le_of_not_lt hi))
  · exact exec_vldrk_noContext (Bool.eq_false_of_not_eq_true hv) vd sel idx

end Sys2Proof.Machine
end

section
/-! The round keys by their words (R134, R135, R140, R190): the end slots of a context, and the step of the AES-128
schedule through the key-generation assist. -/

namespace Sys2Proof.Machine

theorem blockWord_keyExpansion_eq_expandedWord (key : Nat → Byte) (nk r : Nat) {i : Nat}
    (hi : i < 4) : blockWord (keyExpansion key nk r) i = expandedWord key nk (4 * r + i) := by
  rw [expandedWord, show (4 * r + i) / 4 = r by omega, show (4 * r + i) % 4 = i by omega]

/-! ### The end slots (R188) -/

/-- R134: the key's first sixteen bytes are the first round key. -/
theorem blockByte_keyExpansion_zero (key : Nat → Byte) {nk : Nat} (hnk : 4 ≤ nk) {j : Nat}
    (hj : j < 16) : blockByte (keyExpansion key nk 0) j = key j := by
  rw [← Nat.div_add_mod j 4, ← wordByte_blockWord _ _ _ (by omega),
    blockWord_keyExpansion_eq_expandedWord key nk 0 (by omega), Nat.mul_zero, Nat.zero_add,
    wordByte_expandedWord_of_lt key nk (by omega) (by omega)]

theorem four_le_of_contextOk {s : State} (hs : s.contextOk) (hv : s.schedValid = true) :
    4 ≤ s.klen.toNat / 4 := by
  rw [State.contextOk, if_pos hv] at hs
  obtain ⟨hk, -⟩ := hs
  rw [validKlen_iff] at hk
  omega

/-- Settles O27: slot 0 of EK by the key's own words, the ends of DK by R135. -/
theorem endRoundKeys : Obligations.EndRoundKeys := by
  refine fun s hs hv => ⟨fun j hj => ?key, ?first, ?last⟩
  case key =>
    rw [ekAt_of_contextOk hs hv (Nat.zero_le _),
      blockByte_keyExpansion_zero _ (four_le_of_contextOk hs hv) hj]
  case first => rw [dkAt_of_contextOk hs hv (Nat.zero_le _), decKeys_zero]
  case last => rw [dkAt_of_contextOk hs hv le_rfl, decKeys_last]

/-! ### The AES-128 schedule through KeyGenAssist (R190) -/

theorem rotWord_subWord (w : Word) : rotWord (subWord w) = subWord (rotWord w) :=
  word_ext fun k hk => by
    rw [wordByte_rotWord _ k hk, wordByte_subWord _ _ (Nat.mod_lt _ (by decide)),
      wordByte_subWord _ k hk, wordByte_rotWord _ k hk]

section Aes128

variable (key : Nat → Byte) {q : Nat} (hq : q < 10)

include hq

/-- R134, R140: the first word of the next round key takes up word 3 of the assist. -/
theorem blockWord_keyExpansion_succ_zero :
    blockWord (keyExpansion key 4 (q + 1)) 0 =
      blockWord (keyExpansion key 4 q) 0 ^^^
        blockWord (keyGenAssist (keyExpansion key 4 q) (roundConst (q + 1))) 3 := by
  obtain ⟨-, hassist⟩ := blockWord_keyGenAssist (keyExpansion key 4 q) (roundConst (q + 1))
    (show 1 < 2 by decide)
  rw [hassist, rotWord_subWord, blockWord_keyExpansion_eq_expandedWord key 4 _ (by decide),
    blockWord_keyExpansion_eq_expandedWord key 4 _ (by decide),
    blockWord_keyExpansion_eq_expandedWord key 4 _ (by decide),
    expandedWord_of_le key 4 (by decide) (by omega) (by omega), scheduleTemp, if_pos (by omega),
    show (4 * (q + 1) + 0) / 4 = q + 1 by omega]
  rfl

/-- R134: each later word of it takes up the word before it. -/
theorem blockWord_keyExpansion_succ_succ {i : Nat} (hi : i < 3) :
    blockWord (keyExpansion key 4 (q + 1)) (i + 1) =
      blockWord (keyExpansion key 4 q) (i + 1) ^^^ blockWord (keyExpansion key 4 (q + 1)) i := by
  rw [blockWord_keyExpansion_eq_expandedWord key 4 _ (by omega),
    blockWord_keyExpansion_eq_expandedWord key 4 _ (by omega),
    blockWord_keyExpansion_eq_expandedWord key 4 _ (by omega),
    expandedWord_of_le key 4 (by decide) (by omega) (by omega), scheduleTemp, if_neg (by omega),
    if_neg (by omega), show 4 * (q + 1) + (i + 1) - 4 = 4 * q + (i + 1) by omega]
  rfl

end Aes128

/-- Settles O13: the four words one after the other, each from the one before it. -/
theorem keyGenAssistGivesNextRoundKey : Obligations.KeyGenAssistGivesNextRoundKey := by
  intro key r hr1 hr10
  obtain ⟨q, rfl⟩ := Nat.exists_eq_add_of_le' hr1
  rw [Nat.add_sub_cancel]
  intro e u
  have hq : q < 10 := by omega
  have h0 : blockWord (keyExpansion key 4 (q + 1)) 0 = e 0 ^^^ u :=
    blockWord_keyExpansion_succ_zero key hq
  have h1 : blockWord (keyExpansion key 4 (q + 1)) 1 = e 0 ^^^ e 1 ^^^ u := by
    rw [blockWord_keyExpansion_succ_succ key hq (by decide), h0]
    ac_rfl
  have h2 : blockWord (keyExpansion key 4 (q + 1)) 2 = e 0 ^^^ e 1 ^^^ e 2 ^^^ u := by
    rw [blockWord_keyExpansion_succ_succ key hq (by decide), h1]
    ac_rfl
  have h3 : blockWord (keyExpansion key 4 (q + 1)) 3 = e 0 ^^^ e 1 ^^^ e 2 ^^^ e 3 ^^^ u := by
    rw [blockWord_keyExpansion_succ_succ key hq (by decide), h2]
    ac_rfl
  refine block_ext_words fun k hk => ?_
  rw [blockWord_blockOfWords _ k hk]
  obtain rfl | rfl | rfl | rfl : k = 0 ∨ k = 1 ∨ k = 2 ∨ k = 3 := by omega
  exacts [h0, h1, h2, h3]

end Sys2Proof.Machine
end

section
/-! R189: the primitives' command sequences, pair of commands by pair, as the rounds of the cipher and its inverse. -/

namespace Sys2Proof.Machine

/-! ### Commands one after another -/

theorem execAll_cons {i : Instr} {s t : State} (h : exec i s = .next t) (is : List Instr) :
    execAll (i :: is) s = execAll is t := by
  rw [execAll, h]

theorem execAll_append {is : List Instr} {s t : State} (h : execAll is s = .next t)
    (js : List Instr) : execAll (is ++ js) s = execAll js t := by
  induction is generalizing s with
  | nil =>
    cases h
    rfl
  | cons i is ih =>
    obtain ⟨u, hu⟩ := exec_next i s
    rw [execAll_cons hu] at h
    rw [List.cons_append, execAll_cons hu, ih h]

/-- The commands complete in `s` and leave `b` in `V[0]`, and KEY, the context and the path as they were. -/
def LeavesInV0 (is : List Instr) (s : State) (b : Block) : Prop :=
  ∃ t, execAll is s = .next t ∧ SameKeys s t ∧ t.hwpath = s.hwpath ∧ t.readV 0 = b

/-- On the hardware path the command replaces `V[0]` by the function `f` of `V[0]` and `V[1]`. -/
def MixesV1 (i : Instr) (f : Block → Block → Block) : Prop :=
  ∀ s : State, s.hwpath = true →
    exec i s = .next (s.writeV 0 (f (s.readV 0) (s.readV 1))).done

theorem mixesV1_vxor : MixesV1 (.vxor 0 0 1) addRoundKey := fun s _ => exec_vxor 0 0 1 s

theorem mixesV1_of_primitive {i : Instr} {f : Block → Block → Block}
    (h : ∀ s, exec i s = .next (s.primitive 0 (f (s.readV 0) (s.readV 1)))) : MixesV1 i f :=
  fun s hp => (h s).trans (congrArg Host.Outcome.next (primitive_hardware hp 0 _))

/-! ### The sequences -/

section Sequences

variable {s : State} (hv : s.schedValid = true) (hp : s.hwpath = true)

include hv hp

/-- One round key loaded and mixed in by the next command. -/
theorem LeavesInV0.mix {is : List Instr} {b : Block} (h : LeavesInV0 is s b) {i : Instr}
    {f : Block → Block → Block} (hi : MixesV1 i f) (sel : RoundKeySel) {idx : Nat}
    (hidx : idx ≤ s.nr.toNat) :
    LeavesInV0 (is ++ [.vldrk 1 sel idx, i]) s (f b (s.roundKey sel idx)) := by
  obtain ⟨t, ht, hkeys, hpath, rfl⟩ := h
  obtain ⟨hkey, hek, hdk, hnr, hklen, hsv⟩ := hkeys
  have hload := exec_vldrk_context (hsv.trans hv) 1 sel (hnr ▸ hidx)
  have hround : t.roundKey sel idx = s.roundKey sel idx := by
    simp only [roundKey_eq_ite, State.dkAt, State.ekAt, hek, hdk]
  have hmix := hi (t.writeV 1 (t.roundKey sel idx)).done (hpath.trans hp)
  have hrun := (execAll_append ht _).trans ((execAll_cons hload _).trans (execAll_cons hmix []))
  refine ⟨_, hrun, ⟨hkey, hek, hdk, hnr, hklen, hsv⟩, hpath, ?_⟩
  simp [readV_writeV, hround]

/-- R189: the sequence up to round `n` leaves the state of a run with the rounds `f`. -/
theorem leavesInV0_rounds {i : Instr} {f : Block → Block → Block} (hi : MixesV1 i f)
    (sel : RoundKeySel) {run : Nat → Block}
    (hzero : run 0 = addRoundKey (s.readV 0) (s.roundKey sel 0))
    (hsucc : ∀ r, run (r + 1) = f (run r) (s.roundKey sel (r + 1))) {n : Nat}
    (hn : n ≤ s.nr.toNat) :
    LeavesInV0 ([.vldrk 1 sel 0, .vxor 0 0 1] ++ roundCommands sel i n) s (run n) := by
  induction n with
  | zero =>
    have hstart : LeavesInV0 [] s (s.readV 0) := ⟨s, rfl, ⟨rfl, rfl, rfl, rfl, rfl, rfl⟩, rfl, rfl⟩
    rw [hzero]
    exact hstart.mix hv hp mixesV1_vxor sel hn
  | succ n ih =>
    rw [hsucc, roundCommands, ← List.append_assoc]
    exact (ih (by omega)).mix hv hp hi sel hn

theorem encryptionSequence_leavesInV0 :
    LeavesInV0 (encryptionSequence s.nr.toNat) s (s.encryptBlock (s.readV 0)) :=
  (leavesInV0_rounds hv hp (mixesV1_of_primitive fun _ => rfl) .ek
    (run := cipherState s.ekAt (s.readV 0)) rfl (fun _ => rfl) (Nat.sub_le _ 1)).mix hv hp
      (mixesV1_of_primitive fun _ => rfl) .ek le_rfl

theorem decryptionSequence_leavesInV0 :
    LeavesInV0 (decryptionSequence s.nr.toNat) s (s.decryptBlock (s.readV 0)) :=
  (leavesInV0_rounds hv hp (mixesV1_of_primitive fun _ => rfl) .dk
    (run := invCipherState s.dkAt (s.readV 0)) rfl (fun _ => rfl) (Nat.sub_le _ 1)).mix hv hp
      (mixesV1_of_primitive fun _ => rfl) .dk le_rfl

end Sequences

/-- Settles O28: the two sequences round by round, then the middle slots of DK. -/
theorem primitiveSequencesMatchTheCipher : Obligations.PrimitiveSequencesMatchTheCipher := by
  refine fun s hs hv hp => ⟨?enc, ?dec, fun i h1 hi => ?middle⟩
  case enc =>
    obtain ⟨t, ht, -, -, hread⟩ := encryptionSequence_leavesInV0 hv hp
    exact ⟨t, _, ht, exec_encb_context hv 0 0, hread, hread.trans (readV_writeV_same s 0 _).symm⟩
  case dec =>
    obtain ⟨t, ht, -, -, hread⟩ := decryptionSequence_leavesInV0 hv hp
    exact ⟨t, _, ht, exec_decb_context hv 0 0, hread, hread.trans (readV_writeV_same s 0 _).symm⟩
  case middle =>
    rw [dkAt_of_contextOk hs hv (by omega), decKeys_middle s.ekAt s.nr.toNat (j := s.nr.toNat - i)
      (by omega) (by omega) (by omega)]

end Sys2Proof.Machine
end

section
/-! The packet commands (R210 to R217): the header's fields and their report in RESULT, what a decrypted packet holds byte
by byte, and PKTDEC and PKTCHK case by case with their frames. -/

namespace Sys2Proof.Machine

/-! ### The header (R210 to R212) -/

theorem parseHeader_syncOk_iff {m : Memory} :
    (parseHeader m).syncOk = true ↔ m.pktByte 0 = 0x47 := beq_iff_eq

theorem parseHeader_syncOk_eq_false_iff {m : Memory} :
    (parseHeader m).syncOk = false ↔ m.pktByte 0 ≠ 0x47 := beq_eq_false_iff_ne

theorem parseHeader_scrambled (m : Memory) :
    (parseHeader m).scrambled = (m.pktByte 3).getLsbD 7 := scrambledSc_header _

/-- R210, R211: the header is read from the packet bytes 0, 3 and 4. -/
theorem parseHeader_congr {m m' : Memory} (h0 : m.pktByte 0 = m'.pktByte 0)
    (h3 : m.pktByte 3 = m'.pktByte 3) (h4 : m.pktByte 4 = m'.pktByte 4) :
    parseHeader m = parseHeader m' := by
  simp only [parseHeader, h0, h3, h4]

theorem payloadBlocks_eq (poff : Nat) : payloadBlocks poff = (188 - poff) / 16 := by
  rw [payloadBlocks, Config.pktLen, Config.blockBytes]
  split_ifs <;> omega

theorem payloadOffset_eq (afp : Bool) (afl : Byte) :
    payloadOffset afp afl = if afp then 5 + afl.toNat else 4 := by
  rw [payloadOffset, Config.payloadBase]
  split_ifs <;> omega

theorem parseHeader_poff (s : State) : (parseHeader s.mem).poff = s.poff := payloadOffset_eq _ _

theorem parseHeader_nblk (s : State) : (parseHeader s.mem).nblk = s.nblk :=
  (payloadBlocks_eq _).trans (congrArg (fun poff => (188 - poff) / 16) (parseHeader_poff s))

theorem State.poff_bounds (s : State) : 4 ≤ s.poff ∧ s.poff ≤ 260 :=
  parseHeader_poff s ▸ payloadOffset_bounds _ _

/-- Settles O29: the bounds of POFF, then arithmetic over R211's NBLK. -/
theorem payloadLiesInThePacket : Obligations.PayloadLiesInThePacket := by
  intro s
  obtain ⟨hlow, hhigh⟩ := s.poff_bounds
  have hn : s.nblk = (188 - s.poff) / 16 := rfl
  exact ⟨parseHeader_poff s, parseHeader_nblk s, hlow, hhigh, by omega, fun k hk => by omega,
    fun h => by omega, fun h => by omega⟩

/-- R213: what `Pack` makes of the header reports the packet. -/
theorem reports_pack (s : State) (proc : Bool) {scr : Bool}
    (hscr : (s.mem.pktByte 3).getLsbD 7 = scr) :
    Reports s ((parseHeader s.mem).pack proc) scr proc := by
  obtain ⟨-, hhigh⟩ := s.poff_bounds
  have hp : s.poff < 512 := hhigh.trans_lt (by decide)
  have hn : s.nblk < 16 := parseHeader_nblk s ▸ payloadBlocks_lt _
  rw [Header.pack, parseHeader_scrambled, hscr, parseHeader_poff, parseHeader_nblk]
  exact resultLayout true scr proc s.afp s.sc s.poff s.nblk hp hn

/-! ### The decrypted packet (R213, steps 4 to 6) -/

theorem pktBlock_mapPayload {m : Memory} (hm : m.wf) (f : Block → Block) (poff : Nat) {k n : Nat}
    (hk : k < n) :
    (mapPayload f m poff n).pktBlock (poff + 16 * k) = f (m.pktBlock (poff + 16 * k)) :=
  block_ext fun j hj => by
    have hdiv : (poff + 16 * k + j - poff) / 16 = k := by omega
    have hmod : (poff + 16 * k + j - poff) % 16 = j := by omega
    rw [blockByte_pktBlock _ _ _ hj, pktByte_mapPayload hm, if_pos (by omega), hdiv, hmod]

theorem read_mapPayload_other (f : Block → Block) (m : Memory) (poff n : Nat) {a : Nat}
    (h : ¬(Config.pktOffset + poff ≤ a ∧ a < Config.pktOffset + poff + 16 * n)) :
    (mapPayload f m poff n).read a = m.read a := by
  induction n with
  | zero => rfl
  | succ n ih =>
    rw [mapPayload, Memory.setPktBlock, Config.blockBytes,
      read_setPktBytes_other _ _ _ _ (by omega), ih (by omega)]

theorem read_clearScrambling_other (m : Memory) {a : Nat} (h : a ≠ Config.pktOffset + 3) :
    (clearScrambling m).read a = m.read a := read_write_other m _ h

/-- The packet that PKTDEC leaves where it decrypts: the payload's blocks through the inverse cipher, SC cleared. -/
def State.decryptedPacket (s : State) : Memory :=
  clearScrambling (mapPayload s.decryptBlock s.mem s.poff s.nblk)

theorem pktBlock_decryptedPacket {s : State} (hm : s.mem.wf) {k : Nat} (hk : k < s.nblk) :
    s.decryptedPacket.pktBlock (s.poff + 16 * k) =
      s.decryptBlock (s.mem.pktBlock (s.poff + 16 * k)) := by
  obtain ⟨hlow, -⟩ := s.poff_bounds
  calc s.decryptedPacket.pktBlock (s.poff + 16 * k)
      = (mapPayload s.decryptBlock s.mem s.poff s.nblk).pktBlock (s.poff + 16 * k) :=
        blockOfBytes_congr fun _ _ => read_clearScrambling_other _ (by omega)
    _ = s.decryptBlock (s.mem.pktBlock (s.poff + 16 * k)) := pktBlock_mapPayload hm _ _ hk

theorem read_decryptedPacket_other (s : State) {a : Nat} (h3 : a ≠ Config.pktOffset + 3)
    (h : ¬(Config.pktOffset + s.poff ≤ a ∧ a < Config.pktOffset + s.poff + 16 * s.nblk)) :
    s.decryptedPacket.read a = s.mem.read a :=
  (read_clearScrambling_other _ h3).trans (read_mapPayload_other _ _ _ _ h)

theorem pktByte_zero_decryptedPacket (s : State) :
    s.decryptedPacket.pktByte 0 = s.mem.pktByte 0 := by
  obtain ⟨hlow, -⟩ := s.poff_bounds
  exact read_decryptedPacket_other s (by omega) (by omega)

theorem pktByte_three_decryptedPacket {s : State} (hm : s.mem.wf) :
    s.decryptedPacket.pktByte 3 = s.mem.pktByte 3 &&& 0x3F := by
  obtain ⟨hlow, -⟩ := s.poff_bounds
  rw [State.decryptedPacket, pktByte_clearScrambling (wf_mapPayload hm ..), if_pos rfl,
    pktByte_mapPayload hm, if_neg (by omega)]
  rfl

/-- R213, step 6: clearing bits 7:6 of byte 3 leaves SC = 00. -/
theorem sc_clearedByte (b : Byte) : (b &&& 0x3F#8).extractLsb' 6 2 = 0 := by
  revert b
  decide

/-! ### What the two commands leave -/

/-- R213: PKTDEC changes the packet buffer, RESULT and ERR alone. -/
theorem frame_pktdec {s t : State} (h : exec .pktdec s = .next t) :
    OnlyPacketChanges s t := by
  obtain ⟨m, r, e, rfl⟩ := exec_pktdec_cases h
  exact ⟨fun _ => rfl, ⟨rfl, rfl, rfl, rfl, rfl, rfl⟩, rfl, rfl, rfl, rfl⟩

/-- R214: PKTCHK changes RESULT and ERR alone, and no byte of the packet. -/
theorem frame_pktchk {s t : State} (h : exec .pktchk s = .next t) :
    OnlyPacketChanges s t ∧ SameBuffer s t := by
  obtain ⟨r, e, rfl⟩ := exec_pktchk_cases h
  exact ⟨⟨fun _ => rfl, ⟨rfl, rfl, rfl, rfl, rfl, rfl⟩, rfl, rfl, rfl, rfl⟩, fun _ => rfl⟩

/-- R213: the scrambled path under a context, the packet's bytes named. -/
theorem exec_pktdec_decrypted {s : State} (h0 : s.mem.pktByte 0 = 0x47)
    (h3 : (s.mem.pktByte 3).getLsbD 7 = true) (hv : s.schedValid = true) :
    exec .pktdec s =
      .next ((s.setMem s.decryptedPacket).setResult ((parseHeader s.mem).pack true)).done := by
  rw [exec_pktdec_context (parseHeader_syncOk_iff.mpr h0) ((parseHeader_scrambled _).trans h3) hv,
    parseHeader_poff, parseHeader_nblk, ← State.decryptedPacket]

theorem exec_pktchk_unsynced {s : State} (h : (parseHeader s.mem).syncOk = false) :
    exec .pktchk s = .next ((s.setResult 0).raise .badSync) :=
  congrArg Host.Outcome.next (if_pos (by simp [h]))

theorem exec_pktchk_synced {s : State} (h : (parseHeader s.mem).syncOk = true) :
    exec .pktchk s = .next (s.setResult ((parseHeader s.mem).pack false)).done :=
  congrArg Host.Outcome.next (if_neg (by simp [h]))

/-! ### PKTDEC (R213, R215, R217) -/

/-- Settles O30, with what the decrypted packet holds and leaves. -/
theorem pktdecDecryptsPayload : Obligations.PktdecDecryptsPayload := by
  intro s hm h0 h3 hv
  have hexec := exec_pktdec_decrypted h0 h3 hv
  exact ⟨_, hexec, rfl, reports_pack s true h3, frame_pktdec hexec,
    fun _ hk => pktBlock_decryptedPacket hm hk, pktByte_three_decryptedPacket hm,
    fun _ ha hout => read_decryptedPacket_other s ha hout⟩

/-- Settles O31, path by path in the order of R213's checks. -/
theorem pktdecWithoutDecryption : Obligations.PktdecWithoutDecryption := by
  intro s h
  split_ifs with h0 h3
  · have hexec := exec_pktdec_unsynced (parseHeader_syncOk_eq_false_iff.mpr h0)
    exact ⟨_, hexec, frame_pktdec hexec, fun _ => rfl, rfl, rfl⟩
  · have hsync := parseHeader_syncOk_iff.mpr (not_ne_iff.mp h0)
    have hexec := exec_pktdec_skipped hsync ((parseHeader_scrambled _).trans h3)
    exact ⟨_, hexec, frame_pktdec hexec, fun _ => rfl, reports_pack s false h3, rfl⟩
  · have hsync := parseHeader_syncOk_iff.mpr (not_ne_iff.mp h0)
    have hbit := Bool.eq_true_of_not_eq_false h3
    have hv : s.schedValid = false := (h.resolve_left h0).resolve_left h3
    have hexec := exec_pktdec_noContext hsync ((parseHeader_scrambled _).trans hbit) hv
    exact ⟨_, hexec, frame_pktdec hexec, fun _ => rfl, reports_pack s false hbit, rfl⟩

/-- Settles O33: the first PKTDEC keeps the sync byte and leaves SC = 00, which is the skip path of the second. -/
theorem secondPktdecSkips : Obligations.SecondPktdecSkips := by
  intro s t hm h0 h3 hv h
  rw [exec_pktdec_decrypted h0 h3 hv, Host.Outcome.next.injEq] at h
  have hmem : t.mem = s.decryptedPacket := by rw [← h]; rfl
  have hsync : (parseHeader t.mem).syncOk = true := by
    rw [parseHeader_syncOk_iff, hmem, pktByte_zero_decryptedPacket, h0]
  have hsc : t.sc = 0 := by
    rw [State.sc, hmem, pktByte_three_decryptedPacket hm]
    exact sc_clearedByte _
  have hscr : (parseHeader t.mem).scrambled = false := congrArg scrambledSc hsc
  obtain ⟨hok, -, hproc, -, hrsc, -⟩ :=
    reports_pack t false ((parseHeader_scrambled t.mem).symm.trans hscr)
  exact ⟨_, exec_pktdec_skipped hsync hscr, fun _ => rfl, rfl, hrsc.trans hsc, hproc, hok⟩

/-- R139: the inverse cipher of a block reads DK and NR alone. -/
theorem decryptBlock_congr {s s' : State} (hdk : s.dk = s'.dk) (hnr : s.nr = s'.nr) (c : Block) :
    s.decryptBlock c = s'.decryptBlock c :=
  congrArg₂ (fun dk nr => invCipher (slot dk) (BitVec.toNat nr) c) hdk hnr

/-- Settles O34: each new block is the inverse cipher of the old one, which reads DK and NR alone. -/
theorem pktdecDoesNotChain : Obligations.PktdecDoesNotChain := by
  intro s s' t t' hm hm' h0 h0' h3 h3' hv hv' hdk hnr h h' k k' hk hk' hold
  rw [exec_pktdec_decrypted h0 h3 hv, Host.Outcome.next.injEq] at h
  rw [exec_pktdec_decrypted h0' h3' hv', Host.Outcome.next.injEq] at h'
  subst h h'
  calc s.decryptedPacket.pktBlock (s.poff + 16 * k)
      = s.decryptBlock (s.mem.pktBlock (s.poff + 16 * k)) := pktBlock_decryptedPacket hm hk
    _ = s'.decryptBlock (s'.mem.pktBlock (s'.poff + 16 * k')) := by
      rw [hold, decryptBlock_congr hdk hnr]
    _ = s'.decryptedPacket.pktBlock (s'.poff + 16 * k') := (pktBlock_decryptedPacket hm' hk').symm

/-- Settles O36, by the three paths past the sync check. -/
theorem pktdecNeverFailsPastSync : Obligations.PktdecNeverFailsPastSync := by
  intro s h0
  have hsync := parseHeader_syncOk_iff.mpr h0
  cases hscr : (parseHeader s.mem).scrambled with
  | false => exact ⟨_, exec_pktdec_skipped hsync hscr, fun _ => rfl, .inl rfl⟩
  | true =>
    cases hv : s.schedValid with
    | false => exact ⟨_, exec_pktdec_noContext hsync hscr hv, nofun, .inr rfl⟩
    | true => exact ⟨_, exec_pktdec_context hsync hscr hv, fun _ => rfl, .inl rfl⟩

/-! ### PKTCHK (R214, R216) -/

/-- Settles O32, by the sync check. -/
theorem pktchkCommand : Obligations.PktchkCommand := by
  intro s
  split_ifs with h0
  · have hexec := exec_pktchk_unsynced (parseHeader_syncOk_eq_false_iff.mpr h0)
    obtain ⟨hframe, hbuffer⟩ := frame_pktchk hexec
    exact ⟨_, hexec, hframe, hbuffer, rfl, rfl⟩
  · have hexec := exec_pktchk_synced (parseHeader_syncOk_iff.mpr (not_ne_iff.mp h0))
    obtain ⟨hframe, hbuffer⟩ := frame_pktchk hexec
    exact ⟨_, hexec, hframe, hbuffer, reports_pack s false rfl, rfl⟩

/-- Settles O35: the two states have one header, and RESULT and ERR follow from it. -/
theorem pktchkReadsTheHeaderAlone : Obligations.PktchkReadsTheHeaderAlone := by
  intro s s' t t' h0 h3 h4 h h'
  have hheader := parseHeader_congr h0 h3 h4
  cases hsync : (parseHeader s.mem).syncOk with
  | false =>
    rw [exec_pktchk_unsynced hsync, Host.Outcome.next.injEq] at h
    rw [exec_pktchk_unsynced (hheader ▸ hsync), Host.Outcome.next.injEq] at h'
    subst h h'
    exact ⟨rfl, rfl⟩
  | true =>
    rw [exec_pktchk_synced hsync, Host.Outcome.next.injEq] at h
    rw [exec_pktchk_synced (hheader ▸ hsync), Host.Outcome.next.injEq] at h'
    subst h h'
    exact ⟨congrArg (Header.pack · false) hheader, rfl⟩

end Sys2Proof.Machine
end

section
/-! How a command ends (R241, R244): the one code it reports, and what it leaves written where that code is an error. -/

namespace Sys2Proof.Machine

/-! ### The code a command reports (R244) -/

theorem err_primitive (s : State) (vd : VReg) (b : Block) :
    (s.primitive vd b).err = if s.hwpath then .ok else .illegal := by
  cases hp : s.hwpath with
  | true => rw [primitive_hardware hp]; rfl
  | false => rw [primitive_portable hp]; rfl

/-- R244: PKTDEC's checks, BAD_SYNC before NO_SCHEDULE, which only a scrambled packet meets. -/
theorem exec_pktdec_reportedCode (s : State) :
    ∃ t, exec .pktdec s = .next t ∧ t.err = reportedCode s .pktdec := by
  rw [reportedCode, ← parseHeader_scrambled]
  split_ifs with h0 hn
  · exact ⟨_, exec_pktdec_unsynced (parseHeader_syncOk_eq_false_iff.mpr h0), rfl⟩
  · obtain ⟨hscr, hv⟩ := hn
    exact ⟨_, exec_pktdec_noContext (parseHeader_syncOk_iff.mpr (not_ne_iff.mp h0)) hscr
      (Bool.eq_false_of_not_eq_true hv), rfl⟩
  · have hsync := parseHeader_syncOk_iff.mpr (not_ne_iff.mp h0)
    cases hscr : (parseHeader s.mem).scrambled with
    | false => exact ⟨_, exec_pktdec_skipped hsync hscr, rfl⟩
    | true =>
      have hv : s.schedValid = true := not_not.mp fun hv => hn ⟨hscr, hv⟩
      exact ⟨_, exec_pktdec_context hsync hscr hv, rfl⟩

theorem exec_reportedCode (i : Instr) (s : State) :
    ∃ t, exec i s = .next t ∧ t.err = reportedCode s i := by
  cases i with
  | derive klen =>
    rw [reportedCode]
    split_ifs with hk hv
    · exact ⟨_, exec_derive_context hk hv, rfl⟩
    · exact ⟨_, exec_derive_noContext hk (Bool.eq_false_of_not_eq_true hv), rfl⟩
    · exact ⟨_, exec_derive_badLength hk s, rfl⟩
  | encb vd vs =>
    rw [reportedCode]
    split_ifs with hv
    · exact ⟨_, exec_encb_context hv vd vs, rfl⟩
    · exact ⟨_, exec_encb_noContext (Bool.eq_false_of_not_eq_true hv) vd vs, rfl⟩
  | decb vd vs =>
    rw [reportedCode]
    split_ifs with hv
    · exact ⟨_, exec_decb_context hv vd vs, rfl⟩
    · exact ⟨_, exec_decb_noContext (Bool.eq_false_of_not_eq_true hv) vd vs, rfl⟩
  | zeroize => exact ⟨_, rfl, rfl⟩
  | pktdec => exact exec_pktdec_reportedCode s
  | pktchk =>
    rw [reportedCode]
    split_ifs with h0
    · exact ⟨_, exec_pktchk_unsynced (parseHeader_syncOk_eq_false_iff.mpr h0), rfl⟩
    · exact ⟨_, exec_pktchk_synced (parseHeader_syncOk_iff.mpr (not_ne_iff.mp h0)), rfl⟩
  | aesenc => exact ⟨_, rfl, err_primitive ..⟩
  | aesenclast => exact ⟨_, rfl, err_primitive ..⟩
  | aesdec => exact ⟨_, rfl, err_primitive ..⟩
  | aesdeclast => exact ⟨_, rfl, err_primitive ..⟩
  | aesimc => exact ⟨_, rfl, err_primitive ..⟩
  | aeskeygenassist => exact ⟨_, rfl, err_primitive ..⟩
  | vxor vd vs1 vs2 => exact ⟨_, exec_vxor vd vs1 vs2 s, rfl⟩
  | vldrk vd sel idx =>
    rw [reportedCode]
    split_ifs with hv hi
    · exact ⟨_, exec_vldrk_badIndex hv vd sel hi, rfl⟩
    · exact ⟨_, exec_vldrk_context hv vd sel (Nat.le_of_not_lt hi), rfl⟩
    · exact ⟨_, exec_vldrk_noContext (Bool.eq_false_of_not_eq_true hv) vd sel idx, rfl⟩

/-- Settles O39: a word that does not decode raises ILLEGAL, and any other reports its command's code. -/
theorem oneCodeInPriorityOrder : Obligations.OneCodeInPriorityOrder := by
  intro w s
  cases hd : decode w with
  | none => exact ⟨_, execute_of_decode_none hd s, rfl⟩
  | some i => exact execute_of_decode_some hd s ▸ exec_reportedCode i s

/-! ### What a raising command writes (R241) -/

/-- R241: an effect that ends in an error code has written no more than ERR and RESULT. -/
theorem Effect.eq_of_err_ne_ok {s t : State} (h : Effect s t) (he : t.err ≠ .ok) :
    t = (s.setResult t.result).raise t.err := by
  cases h with
  | raised | unsynced | reported => rfl
  | moved | derived | erased | decrypted => exact absurd rfl he

/-- R241, R213, R214: a command that raises writes ERR alone, or is a packet command and writes RESULT too. -/
theorem exec_raises {i : Instr} {s t : State} (h : exec i s = .next t) (he : t.err ≠ .ok) :
    t = s.raise t.err ∨
      ((i = .pktdec ∨ i = .pktchk) ∧ t = (s.setResult t.result).raise t.err) := by
  have ht := (exec_effect h).eq_of_err_ne_ok he
  obtain ⟨hresult | hi, -⟩ := exec_packet h
  · rw [hresult] at ht
    exact .inl ht
  · exact .inr ⟨hi, ht⟩

/-- Settles O40: the word in flight is illegal, or its command raises, and then it is retired. -/
theorem raisingWritesOnlyTheCode : Obligations.RaisingWritesOnlyTheCode := by
  intro w s t hw h he
  rcases engineStep_eq_next h with ⟨hn, -⟩ | ⟨w', -, -, rfl⟩ | ⟨w', i, r, hw', hd, hr, rfl⟩
  · exact absurd (hn.symm.trans hw) nofun
  · exact ⟨rfl, .inl rfl⟩
  · cases hw.symm.trans hw'
    refine ⟨rfl, (exec_raises hr he).imp (congrArg State.retire) ?_⟩
    rintro ⟨rfl | rfl, ht⟩
    · exact ⟨.inl hd, congrArg State.retire ht⟩
    · exact ⟨.inr hd, congrArg State.retire ht⟩

end Sys2Proof.Machine
end

section
/-! The host outside its interface and inside it (R245, R255, R261, R262): the accesses without a meaning, the engine's
idle turn, polling until BUSY = 0, and the key's byte order. -/

namespace Sys2Proof.Machine

/-! ### The checks of an access (R63 to R65) -/

section CheckAccess

variable {σ : Type} {width off : Nat} (go : Host.Outcome σ Fault Refusal)

theorem checkAccess_of_width_ne (hw : width ≠ 4) : checkAccess width off go = .fault .busWidth :=
  if_pos hw

theorem checkAccess_of_misaligned (ha : off % 4 ≠ 0) : checkAccess 4 off go = .fault .busAlign :=
  if_pos ha

theorem checkAccess_of_outside (ha : off % 4 = 0) (ho : 0x400 ≤ off) :
    checkAccess 4 off go = .refused .outsideWindow :=
  (if_neg (not_not.mpr ha)).trans (if_pos ho)

theorem checkAccess_of_inside (ha : off % 4 = 0) (ho : off < 0x400) : checkAccess 4 off go = go :=
  (if_neg (not_not.mpr ha)).trans (if_neg (Nat.not_le.mpr ho))

end CheckAccess

/-! ### Accesses and BUSY (R245, R286) -/

theorem memRead_busy {s : State} (hb : s.busy = true) {off : Nat} (ha : off % 4 = 0)
    (ho : off < 0x400) (hs : off ≠ 0x004) : memRead 4 off s = .fault .protocol :=
  (checkAccess_of_inside _ ha ho).trans (if_pos ⟨hb, hs⟩)

theorem memWrite_busy {s : State} (hb : s.busy = true) {off : Nat} (ha : off % 4 = 0)
    (ho : off < 0x400) (w : Word) : memWrite 4 off w s = .fault .protocol :=
  (checkAccess_of_inside _ ha ho).trans (if_pos hb)

/-- R66, R67, R286: the accesses allowed in a state are those that answer in it. -/
theorem allowed_iff_answers (a : Access) (s : State) :
    a.allowed s = true ↔ ∃ t, hostAccess a s = .next t := by
  cases a with
  | read width off =>
    simp [Access.allowed, hostAccess, mapNext_eq_next, memRead_eq_next, and_assoc,
      imp_iff_not_or]
  | write width off w => simp [Access.allowed, hostAccess, memWrite_eq_next, and_assoc]

/-- Settles O42: each check of R66 and R67 in its order, past those before it. -/
theorem accessesOutsideTheInterface : Obligations.AccessesOutsideTheInterface := by
  refine ⟨fun width off w s hw => ?width, fun off w s ha => ?align, fun off w s ha ho => ?outside,
    fun off w s ha ho hb => ?protocol, fun a is s hi => step_cons hi, allowed_iff_answers⟩
  case width =>
    exact ⟨congrArg (mapNext s.pushReturned) (checkAccess_of_width_ne _ hw),
      checkAccess_of_width_ne _ hw⟩
  case align =>
    exact ⟨congrArg (mapNext s.pushReturned) (checkAccess_of_misaligned _ ha),
      checkAccess_of_misaligned _ ha⟩
  case outside =>
    exact ⟨congrArg (mapNext s.pushReturned) (checkAccess_of_outside _ ha ho),
      checkAccess_of_outside _ ha ho⟩
  case protocol =>
    exact ⟨fun hs => congrArg (mapNext s.pushReturned) (memRead_busy hb ha ho hs),
      memWrite_busy hb ha ho w⟩

/-! ### The engine's turn and polling (R255, R261, R288) -/

theorem engineStep_idle {s : State} (h : s.inflight = none) : engineStep s = .next s := by
  rw [engineStep, h]

/-- Settles O54: the step is the engine's, which is idle. -/
theorem idleBlockKeepsItsState : Obligations.IdleBlockKeepsItsState := fun _ he hn =>
  (step_engine he).trans (engineStep_idle hn)

/-- R285: the engine's turn always answers, ends BUSY, and takes no further input. -/
theorem engineStep_answers (s : State) :
    ∃ t, engineStep s = .next t ∧ t.busy = false ∧ t.inputs = s.inputs := by
  rcases engineStep_cases s with ⟨hn, he⟩ | ⟨w, -, -, he⟩ | ⟨w, i, r, -, -, hr, he⟩
  · exact ⟨s, he, by rw [State.busy, hn]; rfl, rfl⟩
  · exact ⟨_, he, rfl, rfl⟩
  · obtain ⟨-, -, hinputs, -⟩ := (exec_effect hr).control
    exact ⟨_, he, rfl, hinputs⟩

/-- R286: a STATUS read answers whatever BUSY is. -/
theorem memRead_status (s : State) :
    memRead 4 Config.statusOffset s = .next (s.windowRead Config.statusOffset) :=
  memRead_eq_next.mpr ⟨rfl, rfl, by decide, fun _ => rfl, rfl⟩

/-- R261: a poll or the engine's turn answers, and takes no further input. -/
theorem takeInput_polling {i : Input} (hi : i.polling = true) (s : State) :
    ∃ t, takeInput i s = .next t ∧ t.inputs = s.inputs := by
  cases i with
  | access a =>
    cases a with
    | read width off =>
      obtain ⟨rfl, rfl⟩ : width = 4 ∧ off = Config.statusOffset := by
        simpa [Input.polling] using hi
      exact ⟨_, congrArg (mapNext s.pushReturned) (memRead_status s), rfl⟩
    | write => cases hi
  | engine =>
    obtain ⟨t, ht, -, hinputs⟩ := engineStep_answers s
    exact ⟨t, ht, hinputs⟩
  | bus | secondHost | reset => cases hi

theorem stepN_succ_of_next {s t : State} (h : step s = .next t) (n : Nat) :
    stepN (n + 1) s = stepN n t := by
  rw [stepN, h]

/-- The polls, and the turns of the engine among them, one by one; then the engine's step with no input left. -/
theorem stepN_polling {is : List Input} (hp : ∀ i ∈ is, i.polling = true) {s : State}
    (hs : s.inputs = is) : ∃ t, stepN (is.length + 1) s = .next t ∧ t.busy = false := by
  induction is generalizing s with
  | nil =>
    obtain ⟨t, ht, hbusy, -⟩ := engineStep_answers s
    exact ⟨t, stepN_succ_of_next ((step_nil hs).trans ht) 0, hbusy⟩
  | cons i is ih =>
    obtain ⟨hi, his⟩ := List.forall_mem_cons.mp hp
    obtain ⟨u, hu, hinputs⟩ := takeInput_polling hi (s.setInputs is)
    obtain ⟨t, ht, hbusy⟩ := ih his hinputs
    exact ⟨t, (stepN_succ_of_next ((step_cons hs).trans hu) _).trans ht, hbusy⟩

/-- Settles O55, by induction on the inputs. -/
theorem pollingTerminates : Obligations.PollingTerminates := fun _ hp => stepN_polling hp rfl

/-! ### The key's byte order (R262) -/

/-- R262: the position in the key that a byte of the container's sixteen comes to. -/
def keyPosition (j : Nat) : Nat := (j &&& 0xC) + (3 - (j &&& 3))

theorem keyFromContainer_eq (container : Nat → Byte) (p : Nat) :
    keyFromContainer container p = container (8 + keyPosition p) := rfl

/-- R262: each group of four is turned round where it stands. -/
theorem keyPosition_word : ∀ k < 4, ∀ i < 4, keyPosition (4 * k + i) = 4 * k + (3 - i) := by decide

/-- R262: the reordering is its own inverse. -/
theorem keyPosition_keyPosition {j : Nat} (hj : j < 16) : keyPosition (keyPosition j) = j := by
  have hdiv : j / 4 < 4 := by omega
  have hmod : j % 4 < 4 := by omega
  rw [← Nat.div_add_mod j 4, keyPosition_word _ hdiv _ hmod, keyPosition_word _ hdiv _ (by omega),
    Nat.sub_sub_self (Nat.le_of_lt_succ hmod)]

/-- Settles O48: the reordering twice, then the four bytes of a KEY word in reverse. -/
theorem keyReordering : Obligations.KeyReordering := by
  intro container
  refine ⟨fun j hj => congrArg (fun p => container (8 + p)) (keyPosition_keyPosition hj),
    fun k hk => ?_⟩
  have hbyte : ∀ i < 4, keyFromContainer container (4 * k + i) = container (8 + (3 - i) + 4 * k) :=
    fun i hi => by rw [keyFromContainer_eq, keyPosition_word k hk i hi, Nat.add_comm (4 * k),
      Nat.add_assoc]
  rw [wordOfBytes, hbyte 0 (by decide), hbyte 1 (by decide), hbyte 2 (by decide),
    hbyte 3 (by decide)]

end Sys2Proof.Machine
end

section
/-! The block at the end of a run, and the handshake (R281 to R291): the observation as the block's whole state, the latch of
CAP.HWPATH, a command issued, STATUS while BUSY = 1, and the engine's step. -/

namespace Sys2Proof.Machine

/-! ### The packet buffer by its bytes (R42, R62) -/

theorem read_of_unlisted {m : Memory} {a : Nat} (h : ∀ p ∈ m, p.1 ≠ a) : m.read a = unlistedByte := by
  induction m with
  | nil => rfl
  | cons p m ih =>
    obtain ⟨hp, hm⟩ := List.forall_mem_cons.mp h
    rw [Memory.read, if_neg hp, ih hm]

/-- In canonical form inside PKT, a buffer is its 188 bytes: any other offset is unlisted. -/
theorem memory_ext_pktByte {m n : Memory} (hm : m.wf) (hn : n.wf) (hmp : m.inPacket) (hnp : n.inPacket)
    (h : ∀ j < Config.pktLen, m.pktByte j = n.pktByte j) : m = n := by
  refine memory_ext hm hn fun a => ?_
  by_cases ha : Config.pktOffset ≤ a ∧ a < Config.pktOffset + Config.pktLen
  · obtain ⟨hlow, hhigh⟩ := ha
    obtain ⟨j, rfl⟩ := Nat.exists_eq_add_of_le hlow
    exact h j (Nat.lt_of_add_lt_add_left hhigh)
  · have unlisted {l : Memory} (hl : l.inPacket) : l.read a = unlistedByte :=
      read_of_unlisted fun p hp he => ha (he ▸ hl p hp)
    rw [unlisted hmp, unlisted hnp]

/-! ### What the window shows (R66) -/

theorem blockWord_readV (s : State) (n : VReg) {k : Nat} (hk : k < 4) :
    blockWord (s.readV n) k = s.windowRead (0x100 + 16 * n.val + 4 * k) := by
  obtain ⟨hn, hword⟩ := vIndex_offset n hk
  rw [windowRead_v s (inV_word n hk), hn, hword]

theorem pktByte_eq_wordByte (s : State) {j : Nat} (hj : j < Config.pktLen) :
    s.mem.pktByte j = wordByte (s.windowRead (0x200 + 4 * (j / 4))) (j % 4) := by
  have hword : j / 4 < 47 := Nat.div_lt_of_lt_mul hj
  rw [windowRead_pkt s (inPkt_offset hword), wordByte_wordOfBytes _ _ (Nat.mod_lt j (by decide)),
    Nat.add_sub_cancel_left, Nat.div_add_mod]

/-- R35: STATUS tells the four fields under BUSY apart. -/
theorem statusWord_fields {s t : State} (h : s.statusWord = t.statusWord) :
    s.schedValid = t.schedValid ∧ s.err = t.err ∧ s.nr = t.nr ∧ s.klen = t.klen := by
  refine ⟨?_, errNumber_injective ?_, ?_, ?_⟩
  · rw [← statusWord_schedValid, h, statusWord_schedValid]
  · rw [← statusWord_err, h, statusWord_err]
  · rw [← statusWord_nr, h, statusWord_nr]
  · rw [← statusWord_klen, h, statusWord_klen]

/-! ### The observation at the end of a run (R291) -/

/-- R66: the two windows read the same, word by word. -/
def SameWindow (s t : State) : Prop :=
  ∀ off < 0x400, off % 4 = 0 → s.windowRead off = t.windowRead off

theorem sameWindow_of_observation {s t : State} (h : s.observation = t.observation) :
    SameWindow s t ∧ s.ek = t.ek ∧ s.dk = t.dk ∧ s.key = t.key := by
  simp only [State.observation, Prod.mk.injEq, List.map_inj_left, List.mem_range] at h
  obtain ⟨hwords, hkeys⟩ := h
  refine ⟨fun off hoff ha => ?_, hkeys⟩
  have hword := hwords (off / 4) (Nat.div_lt_div_of_lt_of_dvd (by decide) hoff)
  rwa [Nat.mul_div_cancel' (Nat.dvd_of_mod_eq_zero ha)] at hword

namespace SameWindow

variable {s t : State} (h : SameWindow s t)
include h

theorem hwpath : s.hwpath = t.hwpath := bitWord_injective (h 0x000 (by decide) rfl)

theorem statusWord : s.statusWord = t.statusWord := h 0x004 (by decide) rfl

theorem result : s.result = t.result := h 0x00C (by decide) rfl

theorem v : s.v = t.v :=
  Vector.ext fun i hi => block_ext_words fun k hk => by
    have hword := h (0x100 + 16 * i + 4 * k) (by omega) (by omega)
    rwa [← blockWord_readV s ⟨i, hi⟩ hk, ← blockWord_readV t ⟨i, hi⟩ hk] at hword

theorem mem (hs : s.bufferOk) (ht : t.bufferOk) : s.mem = t.mem := by
  obtain ⟨hwf, hin⟩ := hs
  obtain ⟨hwf', hin'⟩ := ht
  refine memory_ext_pktByte hwf hwf' hin hin' fun j hj => ?_
  have hlen : j < 188 := hj
  rw [pktByte_eq_wordByte s hj, pktByte_eq_wordByte t hj,
    h _ (by omega) (by omega)]

end SameWindow

/-- Settles O60: each piece of state by the words of the window that show it; INFLIGHT is none at the end of a run. -/
theorem observationIsTheWholeState : Obligations.ObservationIsTheWholeState := by
  intro s t hs ht hes het h
  obtain ⟨hw, hek, hdk, hkey⟩ := sameWindow_of_observation h
  obtain ⟨hsv, herr, hnr, hklen⟩ := statusWord_fields hw.statusWord
  have hin : s.inflight = t.inflight :=
    (Option.isNone_iff_eq_none.mp hes).trans (Option.isNone_iff_eq_none.mp het).symm
  rw [hw.hwpath, hin, hsv, herr, hnr, hklen, hw.result, hkey, hek, hdk, hw.v, hw.mem hs ht]

/-! ### CAP.HWPATH (R34, R281) -/

theorem windowWrite_hwpath (s : State) (off : Nat) (w : Word) :
    (s.windowWrite off w).hwpath = s.hwpath := by
  rcases windowWrite_cases s off w with ⟨-, h⟩ | ⟨-, -, h⟩ | ⟨-, h⟩ | ⟨-, h⟩ | h <;> simp [h]

theorem hostAccess_hwpath {a : Access} {u t : State} (h : hostAccess a u = .next t) :
    t.hwpath = u.hwpath := by
  rcases hostAccess_cases h with ⟨w, rfl⟩ | ⟨-, off, w, rfl⟩
  · rfl
  · exact windowWrite_hwpath u off w

theorem engineStep_hwpath {u t : State} (h : engineStep u = .next t) : t.hwpath = u.hwpath := by
  rcases engineStep_eq_next h with ⟨-, rfl⟩ | ⟨w, -, -, rfl⟩ | ⟨w, i, r, -, -, hr, rfl⟩
  · rfl
  · rfl
  · obtain ⟨hpath, -⟩ := (exec_effect hr).control
    exact hpath

theorem EngineNext.head?_ne_reset {s : State} (h : EngineNext s) : s.inputs.head? ≠ some .reset := by
  rcases h with h | h <;> simp [h]

/-- Settles O50, by whose turn the step is. -/
theorem capIsLatched : Obligations.CapIsLatched := by
  intro s t h
  rcases step_turn h with ⟨he, h⟩ | ⟨hr, rfl⟩ | ⟨hr, a, h⟩
  · rw [if_neg he.head?_ne_reset]
    exact engineStep_hwpath (u := s.setInputs s.inputs.tail) h
  · rw [if_pos hr]
    rfl
  · rw [if_neg hr]
    exact hostAccess_hwpath (u := s.setInputs s.inputs.tail) h

/-! ### The handshake (R284, R286) -/

theorem windowWrite_cmd (s : State) (w : Word) : s.windowWrite Config.cmdOffset w = s.issue w :=
  if_pos rfl

/-- Settles O51: an idle block takes the write, which issues the command. -/
theorem cmdWriteIssues : Obligations.CmdWriteIssues := fun s w hb =>
  ⟨s.issue w, windowWrite_cmd s w ▸ memWrite_idle hb rfl (by decide) w, rfl, s.busy_issue w⟩

/-- R35, R286: a command in flight shows in STATUS as the bit BUSY alone. -/
theorem statusWord_eq_retire_or (s : State) :
    s.statusWord = s.retire.statusWord ||| bitWord s.busy := by
  refine BitVec.eq_of_getLsbD_eq fun i _ => ?_
  rw [BitVec.getLsbD_or, getLsbD_statusWord, getLsbD_statusWord, getLsbD_bitWord, s.busy_retire,
    Bool.and_false, Bool.false_or]
  simp only [State.retire_schedValid, State.retire_err, State.retire_nr, State.retire_klen]
  ac_rfl

/-- Settles O52: a STATUS read answers with the word at its offset, in which only BUSY tells of the command. -/
theorem statusReadWhileBusy : Obligations.StatusReadWhileBusy := by
  intro s w hw
  have hbusy : s.busy = true := by rw [State.busy, hw]; rfl
  refine ⟨s.statusWord, s.pushReturned s.statusWord, memRead_status s,
    congrArg (mapNext s.pushReturned) (memRead_status s), rfl, ?_, ?_⟩
  · exact (statusWord_busy s).trans hbusy
  · exact (statusWord_eq_retire_or s).trans (by rw [hbusy]; rfl)

/-! ### The engine's step (R285, R287) -/

theorem engineStep_inflight {s : State} {w : Word} (h : s.inflight = some w) :
    engineStep s = mapNext State.retire (execute w s) := by
  rw [engineStep, h]

theorem step_executes {s : State} {w : Word} (he : EngineNext s) (hw : s.inflight = some w) :
    step s = mapNext State.retire (execute w (s.setInputs s.inputs.tail)) :=
  (step_engine he).trans (engineStep_inflight hw)

/-- Settles O53: the step executes the word, which raises ILLEGAL or has its command's meaning. -/
theorem stepRunsTheDecodedCommand : Obligations.StepRunsTheDecodedCommand := by
  refine ⟨fun s w he hw => ⟨step_executes he hw, fun hd => ?illegal⟩,
    fun s t w i he hw hd ht => ⟨?command, rfl⟩⟩
  case illegal => exact (step_executes he hw).trans (congrArg _ (execute_of_decode_none hd _))
  case command =>
    exact (step_executes he hw).trans (congrArg _ ((execute_of_decode_some hd _).trans ht))

end Sys2Proof.Machine
end
